-- ==== Sys2Proof/Word.lean ====
section
/-! DEFINITION. The word type of the register bus and the two sizes the bus contract fixes. -/

namespace Sys2Proof

/-- A bus word: the register bus is 32 bits wide (00_scope R11 BUS_WIDTH; 20_memory R52). -/
abbrev Word := BitVec 32

/-- The one access size of the block, in bytes (20_memory R52). -/
def accessBytes : Nat := 4

end Sys2Proof
end

