-- ==== Sys2Proof/Syntax.lean ====
section
/-! DEFINITION. What the bus master can ask for: the request of a cycle, and the 24 transactions. -/

namespace Sys2Proof

/-- The request of one bus cycle (30_encoding R70). `a` is a byte offset from `CSR_BASE`, `size` the access
size in bytes, `d` the write data. -/
inductive Request where
  | idle
  | read (a : Word) (size : Nat)
  | write (a : Word) (size : Nat) (d : Word)
deriving DecidableEq, Repr, Inhabited

/-- The transaction set (30_encoding R77), one constructor per row of `opcode_table.json`. `k` is the event
manager number, `RQ[14:11]`; `d` is the write data. A read carries no data. -/
inductive Instr where
  | rdPower
  | wrPower (d : Word)
  | rdRebootCtrl
  | wrRebootCtrl (d : Word)
  | rdRebootAddr
  | wrRebootAddr (d : Word)
  | rdDrpAdr
  | wrDrpAdr (d : Word)
  | rdDrpDatW
  | wrDrpDatW (d : Word)
  | rdDrpDatR
  | wrDrpDatR (d : Word)
  | rdDrpReady
  | wrDrpReady (d : Word)
  | rdDrpRead
  | wrDrpRead (d : Word)
  | rdDrpWrite
  | wrDrpWrite (d : Word)
  | rdEvPending (k : BitVec 4)
  | wrEvPending (k : BitVec 4) (d : Word)
  | rdEvEnable (k : BitVec 4)
  | wrEvEnable (k : BitVec 4) (d : Word)
  | rdEvPolarity (k : BitVec 4)
  | wrEvPolarity (k : BitVec 4) (d : Word)
deriving DecidableEq, Repr, Inhabited

end Sys2Proof
end

