-- ==== Sys2Proof/Config.lean ====
section
/-! DEFINITION. What a build fixes (00_scope R11), the inputs of a cycle (10_state R40) with its draws (R9),
and the free input the environment supplies when a state lists none. -/

namespace Sys2Proof

/-- The edge policy of an event source (41_event_manager R121). -/
inductive EdgePolicy where
  | risingPulse
  | fallingLatched
  | selectablePolarity
deriving DecidableEq, Repr, Inhabited

/-- Where the signal of a source comes from (41_event_manager R122): the synchronized output of chain `c`, or
a trigger of the bus domain itself. -/
inductive InputKind where
  | async (c : Nat)
  | inDomain
deriving DecidableEq, Repr, Inhabited

/-- One event source of `EV_SOURCES[k]`, with its `EDGE_PREV_INIT[k][i]` (00_scope R11). -/
structure Source where
  name : String
  policy : EdgePolicy
  input : InputKind
  prevInit : Bool
deriving DecidableEq, Repr, Inhabited

/-- `WARM_RESET_SCOPE`: what the warm-reboot request resets in the block (44_warm_reboot R198). -/
inductive WarmResetScope where
  | none
  | ctrlOnly
  | all
  | allInclAddr
deriving DecidableEq, Repr, Inhabited

/-- The parameters of the block (00_scope R11), resolved once and never changed during a run (R13).
`NUM_EV` and `NUM_ASYNC` are the lengths of `evSources` and `syncInit`. -/
structure Config where
  csrBase : Word
  syncStages : Nat
  syncInit : List Bool
  evSources : List (List Source)
  resetVectorDefault : Word
  warmResetScope : WarmResetScope
deriving DecidableEq, Repr, Inhabited

namespace Config

/-- `K`, the number of event managers. -/
def numEv (cfg : Config) : Nat := cfg.evSources.length

/-- `C`, the number of synchronizer channels. -/
def numAsync (cfg : Config) : Nat := cfg.syncInit.length

/-- `EV_SOURCES[k]`; empty where there is no manager `k`. -/
def sources (cfg : Config) (k : Nat) : List Source := cfg.evSources.getD k []

/-- `HAS_POL(k)`: some source of manager `k` has the `SelectablePolarity` policy (30_encoding R72). -/
def hasPol (cfg : Config) (k : Nat) : Bool :=
  (cfg.sources k).any fun src => src.policy == .selectablePolarity

/-- A source's channel, if it names one, is a channel of the block. -/
def sourceOk (cfg : Config) (src : Source) : Bool :=
  match src.input with
  | .async c => decide (c < cfg.numAsync)
  | .inDomain => true

/-- The bounds 00_scope R11 puts on the parameters: `N >= 2`, `K <= 16`, `1 <= N_k <= 32`. -/
abbrev WF (cfg : Config) : Prop :=
  2 ≤ cfg.syncStages ∧ cfg.numEv ≤ 16 ∧
    ∀ srcs ∈ cfg.evSources, 1 ≤ srcs.length ∧ srcs.length ≤ 32 ∧ ∀ src ∈ srcs, cfg.sourceOk src = true

/-- The reference configuration of 95_test_vectors section 0. That section fixes no `CSR_BASE` and no
`WARM_RESET_SCOPE`; a test that depends on the scope says which it takes (log 2). -/
def reference : Config where
  csrBase := 0xF0000000#32
  syncStages := 2
  syncInit := [false, false]
  evSources :=
    [[⟨"m0s0", .risingPulse, .async 0, false⟩, ⟨"m0s1", .fallingLatched, .inDomain, false⟩,
      ⟨"m0s2", .risingPulse, .inDomain, false⟩],
     [⟨"m1s0", .selectablePolarity, .async 1, false⟩, ⟨"m1s1", .risingPulse, .inDomain, false⟩]]
  resetVectorDefault := 0x20000000#32
  warmResetScope := .ctrlOnly

/-- The three sources of every manager of `populated`: one of each policy. -/
def populatedSources : List Source :=
  [⟨"gpio", .selectablePolarity, .async 1, false⟩, ⟨"level", .fallingLatched, .inDomain, false⟩,
   ⟨"pulse", .risingPulse, .async 0, false⟩]

/-- DESIGN CHOICE (unsafe, log 2): the build `State.reset` stands for. It keeps the reference values of the
scalar parameters and populates all 16 managers, each with a `POLARITY` register, so that every request word
of the opcode table names a register of it. -/
def populated : Config :=
  { reference with evSources := List.replicate 16 populatedSources }

end Config

/-- The free choices of one cycle (00_scope R9): the bus data of a cycle whose `rdata` no rule gives
(40_register_bus R105, 70_reset_and_hazards R252), and for each channel whether stage 0 takes the new raw
value when it changed (42_synchronizer R152). -/
structure Draws where
  rdata : Word
  stage0 : List Bool
deriving DecidableEq, Repr, Inhabited

/-- The inputs of one cycle (10_state R40) with its draws. Bit `i` of `evin[k]` is `evin[k][i]`; an entry a
list does not have reads as 0 (log 9). -/
structure Input where
  req : Request
  rstIn : Bool
  pllLocked : Bool
  raw : List Bool
  evin : List Word
  drpRdy : Bool
  drpDo : BitVec 16
  draws : Draws
deriving DecidableEq, Repr, Inhabited

/-- The quiet environment of 95_test_vectors section 0: no reset, PLL locked, every other signal 0. -/
def Input.quiet : Input where
  req := .idle
  rstIn := false
  pllLocked := true
  raw := []
  evin := []
  drpRdy := false
  drpDo := 0#16
  draws := ⟨0#32, []⟩

/-- The input of cycle `t` when the state lists none: a FREE VALUE (log 3). The environment is a free input
of every step (00_scope R8), so nothing is known of it. -/
opaque Config.freeInput : Nat → Input

end Sys2Proof
end

