-- ==== Sys2Proof/WellFormed.lean ====
section
/-! DEFINITION. Which transactions a build has (30_encoding R72, R78). -/

namespace Sys2Proof

/-- Manager `k` exists in the build (30_encoding R72: `k >= K` is unmapped). -/
def Config.hasManager (cfg : Config) (k : BitVec 4) : Bool := decide (k.toNat < cfg.numEv)

/-- Manager `k` exists and has a POLARITY register (30_encoding R72, 10_state R32). -/
def Config.hasPolarity (cfg : Config) (k : BitVec 4) : Bool := cfg.hasManager k && cfg.hasPol k.toNat

/-- The registers a transaction names are there in the build: the two checks decode makes after a row of the
table matched (30_encoding R72). -/
def Instr.wellFormed (cfg : Config) : Instr → Bool
  | .rdPower | .wrPower _ | .rdRebootCtrl | .wrRebootCtrl _ | .rdRebootAddr | .wrRebootAddr _ => true
  | .rdDrpAdr | .wrDrpAdr _ | .rdDrpDatW | .wrDrpDatW _ | .rdDrpDatR | .wrDrpDatR _ => true
  | .rdDrpReady | .wrDrpReady _ | .rdDrpRead | .wrDrpRead _ | .rdDrpWrite | .wrDrpWrite _ => true
  | .rdEvPending k | .wrEvPending k _ | .rdEvEnable k | .wrEvEnable k _ => cfg.hasManager k
  | .rdEvPolarity k | .wrEvPolarity k _ => cfg.hasPolarity k

end Sys2Proof
end

