-- ==== Sys2Proof/Decode.lean ====
section
/-! DEFINITION. Decode of a request (30_encoding R71, R72) over the rows of `opcode_table.json`, and the
encoder beside it. -/

namespace Sys2Proof

/-- One row of `opcode_table.json`: it selects the request words with `RQ & mask = pattern` (30_encoding R71).
`build` makes the transaction from `k = RQ[14:11]` and the write data. -/
structure OpcodeRow where
  mnemonic : String
  pattern : BitVec 33
  mask : BitVec 33
  build : BitVec 4 → Word → Instr

/-- The mask of a fixed-block row: all 33 bits. -/
def fixedMask : BitVec 33 := 0x1FFFFFFFF#33

/-- The mask of an event-manager row: every bit but `k = RQ[14:11]`. -/
def evMask : BitVec 33 := 0x1FFFF87FF#33

/-- The fixed-block rows of `opcode_table.json`, in its order. -/
def fixedRows : List OpcodeRow :=
  [⟨"RD.POWER", 0x000000000#33, fixedMask, fun _ _ => .rdPower⟩,
   ⟨"WR.POWER", 0x100000000#33, fixedMask, fun _ d => .wrPower d⟩,
   ⟨"RD.REBOOT_CTRL", 0x000000800#33, fixedMask, fun _ _ => .rdRebootCtrl⟩,
   ⟨"WR.REBOOT_CTRL", 0x100000800#33, fixedMask, fun _ d => .wrRebootCtrl d⟩,
   ⟨"RD.REBOOT_ADDR", 0x000000804#33, fixedMask, fun _ _ => .rdRebootAddr⟩,
   ⟨"WR.REBOOT_ADDR", 0x100000804#33, fixedMask, fun _ d => .wrRebootAddr d⟩,
   ⟨"RD.DRP_ADR", 0x000001000#33, fixedMask, fun _ _ => .rdDrpAdr⟩,
   ⟨"WR.DRP_ADR", 0x100001000#33, fixedMask, fun _ d => .wrDrpAdr d⟩,
   ⟨"RD.DRP_DAT_W", 0x000001004#33, fixedMask, fun _ _ => .rdDrpDatW⟩,
   ⟨"WR.DRP_DAT_W", 0x100001004#33, fixedMask, fun _ d => .wrDrpDatW d⟩,
   ⟨"RD.DRP_DAT_R", 0x000001008#33, fixedMask, fun _ _ => .rdDrpDatR⟩,
   ⟨"WR.DRP_DAT_R", 0x100001008#33, fixedMask, fun _ d => .wrDrpDatR d⟩,
   ⟨"RD.DRP_READY", 0x00000100C#33, fixedMask, fun _ _ => .rdDrpReady⟩,
   ⟨"WR.DRP_READY", 0x10000100C#33, fixedMask, fun _ d => .wrDrpReady d⟩,
   ⟨"RD.DRP_READ", 0x000001010#33, fixedMask, fun _ _ => .rdDrpRead⟩,
   ⟨"WR.DRP_READ", 0x100001010#33, fixedMask, fun _ d => .wrDrpRead d⟩,
   ⟨"RD.DRP_WRITE", 0x000001014#33, fixedMask, fun _ _ => .rdDrpWrite⟩,
   ⟨"WR.DRP_WRITE", 0x100001014#33, fixedMask, fun _ d => .wrDrpWrite d⟩]

/-- The event-manager rows of `opcode_table.json`, in its order. -/
def evRows : List OpcodeRow :=
  [⟨"RD.EV_PENDING", 0x000008000#33, evMask, fun k _ => .rdEvPending k⟩,
   ⟨"WR.EV_PENDING", 0x100008000#33, evMask, fun k d => .wrEvPending k d⟩,
   ⟨"RD.EV_ENABLE", 0x000008004#33, evMask, fun k _ => .rdEvEnable k⟩,
   ⟨"WR.EV_ENABLE", 0x100008004#33, evMask, fun k d => .wrEvEnable k d⟩,
   ⟨"RD.EV_POLARITY", 0x000008008#33, evMask, fun k _ => .rdEvPolarity k⟩,
   ⟨"WR.EV_POLARITY", 0x100008008#33, evMask, fun k d => .wrEvPolarity k d⟩]

/-- The whole opcode table. -/
def opcodeTable : List OpcodeRow := fixedRows ++ evRows

/-- The row selects the request word. -/
def OpcodeRow.selects (row : OpcodeRow) (rq : BitVec 33) : Bool := rq &&& row.mask == row.pattern

/-- The transaction the table reads from a request word and the data beside it. -/
def decodeRQ (rq : BitVec 33) (d : Word) : Option Instr :=
  (opcodeTable.find? fun row => row.selects rq).map fun row => row.build (rq.extractLsb' 11 4) d

/-- `RQ = {we, a[31:0]}` (30_encoding R71). -/
def requestWord (we : Bool) (a : Word) : BitVec 33 := BitVec.ofBool we ++ a

/-- Why a request names no register: the two decode faults of 60_exceptions R231. -/
inductive DecodeFault where
  | badWidth
  | unmapped
deriving DecidableEq, Repr

/-- What a request decodes to. -/
inductive Decoded where
  | idle
  | transaction (i : Instr)
  | rejected (why : DecodeFault)
deriving DecidableEq, Repr

/-- Decode of an access after the idle test (30_encoding R72): size, alignment, table, build, in that order. -/
def decodeAccess (cfg : Config) (we : Bool) (a : Word) (size : Nat) (d : Word) : Decoded :=
  if size ≠ accessBytes then .rejected .badWidth
  else if a.extractLsb' 0 2 ≠ 0#2 then .rejected .unmapped
  else match decodeRQ (requestWord we a) d with
    | some i => if i.wellFormed cfg then .transaction i else .rejected .unmapped
    | none => .rejected .unmapped

/-- Decode of one request (30_encoding R72). -/
def decode (cfg : Config) : Request → Decoded
  | .idle => .idle
  | .read a size => decodeAccess cfg false a size 0#32
  | .write a size d => decodeAccess cfg true a size d

/-- The offset of an event manager's register: `0x8000 + 0x800*k + w` (20_memory R59). -/
def evOffset (k : BitVec 4) (w : BitVec 11) : Word := 1#17 ++ k ++ w

/-- The register offset a transaction names (20_memory R59). -/
def Instr.offset : Instr → Word
  | .rdPower | .wrPower _ => 0x0000#32
  | .rdRebootCtrl | .wrRebootCtrl _ => 0x0800#32
  | .rdRebootAddr | .wrRebootAddr _ => 0x0804#32
  | .rdDrpAdr | .wrDrpAdr _ => 0x1000#32
  | .rdDrpDatW | .wrDrpDatW _ => 0x1004#32
  | .rdDrpDatR | .wrDrpDatR _ => 0x1008#32
  | .rdDrpReady | .wrDrpReady _ => 0x100C#32
  | .rdDrpRead | .wrDrpRead _ => 0x1010#32
  | .rdDrpWrite | .wrDrpWrite _ => 0x1014#32
  | .rdEvPending k | .wrEvPending k _ => evOffset k 0x000#11
  | .rdEvEnable k | .wrEvEnable k _ => evOffset k 0x004#11
  | .rdEvPolarity k | .wrEvPolarity k _ => evOffset k 0x008#11

/-- The data of a write; none for a read. -/
def Instr.writeData : Instr → Option Word
  | .wrPower d | .wrRebootCtrl d | .wrRebootAddr d | .wrDrpAdr d | .wrDrpDatW d | .wrDrpDatR d => some d
  | .wrDrpReady d | .wrDrpRead d | .wrDrpWrite d => some d
  | .wrEvPending _ d | .wrEvEnable _ d | .wrEvPolarity _ d => some d
  | .rdPower | .rdRebootCtrl | .rdRebootAddr | .rdDrpAdr | .rdDrpDatW | .rdDrpDatR => none
  | .rdDrpReady | .rdDrpRead | .rdDrpWrite | .rdEvPending _ | .rdEvEnable _ | .rdEvPolarity _ => none

/-- The encoder: the request the bus master issues for a transaction (30_encoding R70, R71, R81). -/
def encode (i : Instr) : Request :=
  match i.writeData with
  | some d => .write i.offset accessBytes d
  | none => .read i.offset accessBytes

/-- The request word `RQ` of a transaction (30_encoding R71). -/
def encodeRQ (i : Instr) : BitVec 33 := requestWord i.writeData.isSome i.offset

/-- The transaction word of the host's interface (log 6): the request word in bits 32..0, bits 39..33 zero to
the byte boundary, then the write data in bits 71..40. Bits at `nbits` and above are 0. -/
def transactionBits (nbits w : Nat) : BitVec 72 := BitVec.ofNat 72 (w % 2 ^ nbits)

/-- The request a transaction word stands for, of the one access size; none where bits 39..33 are not 0. -/
def requestOfWord (nbits w : Nat) : Option Request :=
  let bits := transactionBits nbits w
  if bits.extractLsb' 33 7 ≠ 0#7 then none
  else if bits.getLsbD 32 then some (.write (bits.extractLsb' 0 32) accessBytes (bits.extractLsb' 40 32))
  else some (.read (bits.extractLsb' 0 32) accessBytes)

/-- The transaction a word of the opcode table decodes to, before the build's own checks (`Instr.wellFormed`). -/
def decodeTableWord (nbits w : Nat) : Option Instr :=
  match requestOfWord nbits w with
  | some (.write a _ d) => decodeRQ (requestWord true a) d
  | some (.read a _) => decodeRQ (requestWord false a) 0#32
  | some .idle => none
  | none => none

end Sys2Proof
end

