-- ==== Sys2Proof/Machine/Bits.lean ====
section
/-! DEFINITION. Registers with one bit per event source: packing, and the masks `M_k` and `P_k` (30_encoding
R76). -/

namespace Sys2Proof.Machine

/-- The word whose bit `i + j` is `f (i + j)` of the `j`-th source of the list; every other bit is 0. -/
def packFrom (f : Nat → Source → Bool) : Nat → List Source → Word
  | _, [] => 0#32
  | i, src :: rest => (if f i src then BitVec.twoPow 32 i else 0#32) ||| packFrom f (i + 1) rest

/-- The word whose bit `i` is `f i` of source `i`, for `i < N_k`; the bits above are 0 (41_event_manager R120). -/
def packSources (srcs : List Source) (f : Nat → Source → Bool) : Word := packFrom f 0 srcs

/-- `M_k`, the bits of the sources of a manager (30_encoding R76). -/
def sourceMask (srcs : List Source) : Word := packSources srcs fun _ _ => true

/-- `P_k`, the bits of the `SelectablePolarity` sources of a manager (30_encoding R76). -/
def polarityMask (srcs : List Source) : Word := packSources srcs fun _ src => src.policy == .selectablePolarity

end Sys2Proof.Machine
end

