-- ==== Sys2Proof/Machine/State.lean ====
section
/-! DEFINITION. The state of the block (10_state R20), its reset value (R42), the outputs of a cycle (R41),
the machine state around them, and the reasons a step can stop (60_exceptions R231). -/

namespace Sys2Proof.Machine

/-- The request the clock port has outstanding (10_state R35). -/
inductive DrpBusy where
  | idle
  | rd
  | wr
deriving DecidableEq, Repr, Inhabited

/-- The registers of one event manager (10_state R30, R31, R32, R36). Bit `i` is source `i`; the bits at `N_k`
and above are 0, and so is `polarity` where the manager has no POLARITY register (log 8). -/
structure EvManager where
  pending : Word
  enable : Word
  polarity : Word
  prev : Word
deriving DecidableEq, Repr, Inhabited

/-- One synchronizer chain (10_state R37): its stages, stage 0 first, and the model-only `a_last`. -/
structure SyncChain where
  stages : List Bool
  aLast : Bool
deriving DecidableEq, Repr, Inhabited

/-- The state record `S` of the block (10_state R20). "Nothing else is state." -/
structure Block where
  power : BitVec 8
  rebootCtrl : BitVec 8
  rebootAddr : Word
  drpAdr : BitVec 7
  drpDatW : BitVec 16
  drpDatR : BitVec 16
  drpReady : Bool
  drpBusy : DrpBusy
  ev : List EvManager
  sync : List SyncChain
deriving DecidableEq, Repr, Inhabited

/-- The registers of manager `k`; all 0 where the block has no manager `k`. -/
def Block.managerAt (b : Block) (k : Nat) : EvManager := b.ev.getD k ⟨0#32, 0#32, 0#32, 0#32⟩

/-- The outputs of a cycle (10_state R41). `rdata` is a free value in a cycle where no rule gives it (log 5).
`cpuReset` and `cpuStart` are what 44_warm_reboot R192 says the CPU does with the outputs (log 14): it is
held while `cpuReset`, and `cpuStart` is the address it starts from in the cycle of its release. -/
structure Outputs where
  rdata : Word
  irq : List Bool
  audioOn : Bool
  sysOn : Bool
  snoopAllowN : Bool
  memS0 : Bool
  memS1 : Bool
  noisebiasOn : Bool
  noiseOn : BitVec 2
  rebootReq : Bool
  resetVector : Word
  drpEn : Bool
  drpWe : Bool
  drpAddr : BitVec 7
  drpDi : BitVec 16
  syncOut : List Bool
  cpuReset : Bool
  cpuStart : Option Word
deriving DecidableEq, Repr, Inhabited

/-- The machine: the block, with the parameters it was built with (log 1), the number of the coming cycle and
the inputs listed for the coming cycles (log 3), and the outputs of the last completed cycle (log 5). -/
structure State where
  cfg : Config
  blk : Block
  cycle : Nat
  inputs : List Input
  out : Outputs
deriving DecidableEq, Repr, Inhabited

/-- The three situations the source leaves "undefined at the boundary" (60_exceptions R231), each with what
the rule says it records. A fault is final (R232). All three are safe: the hardware does something the source
does not say, and the model stops. -/
inductive Fault where
  /-- The offset resolves to no register. Raised by decode (30_encoding R72) and by a transaction of a
  manager or POLARITY register the build does not have. Safe. -/
  | unmapped (req : Request)
  /-- The access size is not 4 bytes. Raised by decode (30_encoding R72). Safe. -/
  | badWidth (req : Request)
  /-- A write to DRP_READ or DRP_WRITE while a request is outstanding. Raised by those two transactions
  (45_clock_port R215). Safe. -/
  | drpOverlap (req : Request) (busy : DrpBusy)
deriving DecidableEq, Repr

/-- There is no refusal inside the block (00_scope R10); the one constructor is the host's. -/
inductive Refusal where
  /-- An instruction without a meaning yet. No arm of `exec` raises it. Safe. -/
  | notModelled (mnemonic : String)
deriving DecidableEq, Repr

/-- Manager registers at reset (10_state R42): the edge history takes `EDGE_PREV_INIT`, the rest 0. -/
def EvManager.reset (srcs : List Source) : EvManager where
  pending := 0#32
  enable := 0#32
  polarity := 0#32
  prev := packSources srcs fun _ src => src.prevInit

/-- A chain at reset (10_state R42, 42_synchronizer R157): every stage and `a_last` take `SYNC_INIT[c]`. -/
def SyncChain.reset (stages : Nat) (init : Bool) : SyncChain where
  stages := List.replicate stages init
  aLast := init

/-- The reset state `RESET` (10_state R42). -/
def Block.reset (cfg : Config) : Block where
  power := 0x0A#8
  rebootCtrl := 0x00#8
  rebootAddr := cfg.resetVectorDefault
  drpAdr := 0#7
  drpDatW := 0#16
  drpDatR := 0#16
  drpReady := true
  drpBusy := .idle
  ev := cfg.evSources.map EvManager.reset
  sync := cfg.syncInit.map (SyncChain.reset cfg.syncStages)

/-- The outputs of a reset cycle, written out from 70_reset_and_hazards R252 and 43_power_sequencer R183. -/
def Outputs.inReset (cfg : Config) (rdata : Word) : Outputs where
  rdata := rdata
  irq := List.replicate cfg.numEv false
  audioOn := false
  sysOn := true
  snoopAllowN := true
  memS0 := false
  memS1 := false
  noisebiasOn := false
  noiseOn := 0#2
  rebootReq := false
  resetVector := cfg.resetVectorDefault
  drpEn := false
  drpWe := false
  drpAddr := 0#7
  drpDi := 0#16
  syncOut := cfg.syncInit
  cpuReset := true
  cpuStart := none

/-- The machine of the build `cfg` right after the power-on reset cycle 0 (70_reset_and_hazards R253): no
input is listed, so the environment is free from the first cycle on. The `rdata` of the reset cycle is a
free value; 0 stands for it here (DESIGN CHOICE, log 5). -/
def State.resetOf (cfg : Config) : State where
  cfg := cfg
  blk := Block.reset cfg
  cycle := 1
  inputs := []
  out := Outputs.inReset cfg 0#32

/-- The machine right after reset. DESIGN CHOICE (unsafe, log 2): of the build `Config.populated`, since the
spec leaves the parameters open; statements about reset are made for every build, by `State.resetOf`. -/
def State.reset : State := State.resetOf Config.populated

end Sys2Proof.Machine
end

