-- ==== Sys2Proof/Machine/Operands.lean ====
section
/-! DEFINITION. The registers a transaction names, their access modes and masks (40_register_bus R101 to R104,
30_encoding R74 to R76), and the two CPU-side bus primitives (00_scope R16). -/

namespace Sys2Proof.Machine

/-- A register of the window (20_memory R59). -/
inductive RegRef where
  | power
  | rebootCtrl
  | rebootAddr
  | drpAdr
  | drpDatW
  | drpDatR
  | drpReady
  | drpRead
  | drpWrite
  | evPending (k : BitVec 4)
  | evEnable (k : BitVec 4)
  | evPolarity (k : BitVec 4)
deriving DecidableEq, Repr

/-- The access modes (00_scope R17, 40_register_bus R101 to R104). -/
inductive AccessMode where
  | rw
  | ro
  | woStrobe
  | w1c
deriving DecidableEq, Repr

/-- The access mode of each register (20_memory R59). -/
def RegRef.mode : RegRef → AccessMode
  | .power | .rebootCtrl | .rebootAddr | .drpAdr | .drpDatW => .rw
  | .drpDatR | .drpReady => .ro
  | .drpRead | .drpWrite => .woStrobe
  | .evPending _ => .w1c
  | .evEnable _ | .evPolarity _ => .rw

/-- The write masks (30_encoding R76): the bits a write can change, or clear. A strobe has none: its data is
ignored. -/
def RegRef.writeMask (cfg : Config) : RegRef → Word
  | .power => 0x000000FF#32
  | .rebootCtrl => 0x000000FF#32
  | .rebootAddr => 0xFFFFFFFF#32
  | .drpAdr => 0x0000007F#32
  | .drpDatW => 0x0000FFFF#32
  | .drpDatR | .drpReady => 0x00000000#32
  | .drpRead | .drpWrite => 0x00000000#32
  | .evPending k => sourceMask (cfg.sources k.toNat)
  | .evEnable k => sourceMask (cfg.sources k.toNat)
  | .evPolarity k => polarityMask (cfg.sources k.toNat)

/-- The read masks (30_encoding R76): the bits that can read as 1. -/
def RegRef.readMask (cfg : Config) : RegRef → Word
  | .power => 0x000000FF#32
  | .rebootCtrl => 0x000000FF#32
  | .rebootAddr => 0xFFFFFFFF#32
  | .drpAdr => 0x0000007F#32
  | .drpDatW => 0x0000FFFF#32
  | .drpDatR => 0x0000FFFF#32
  | .drpReady => 0x00000001#32
  | .drpRead | .drpWrite => 0x00000000#32
  | .evPending k => sourceMask (cfg.sources k.toNat)
  | .evEnable k => sourceMask (cfg.sources k.toNat)
  | .evPolarity k => polarityMask (cfg.sources k.toNat)

/-- The data a read of a register returns (30_encoding R75): the register's bits in their places, 0 in every
unused bit. A strobe register reads 0 (40_register_bus R103). -/
def RegRef.get (cfg : Config) (b : Block) : RegRef → Word
  | .power => b.power.setWidth 32
  | .rebootCtrl => b.rebootCtrl.setWidth 32
  | .rebootAddr => b.rebootAddr
  | .drpAdr => b.drpAdr.setWidth 32
  | .drpDatW => b.drpDatW.setWidth 32
  | .drpDatR => b.drpDatR.setWidth 32
  | .drpReady => (BitVec.ofBool b.drpReady).setWidth 32
  | .drpRead => 0#32
  | .drpWrite => 0#32
  | .evPending k => (b.managerAt k.toNat).pending &&& sourceMask (cfg.sources k.toNat)
  | .evEnable k => (b.managerAt k.toNat).enable &&& sourceMask (cfg.sources k.toNat)
  | .evPolarity k => (b.managerAt k.toNat).polarity &&& polarityMask (cfg.sources k.toNat)

/-- Storing `d` into a read-write register (40_register_bus R101, 30_encoding R74): `d & WMASK`, truncated to
the register's width. The other modes hold nothing a bus write stores. -/
def RegRef.put (cfg : Config) (d : Word) (b : Block) : RegRef → Block
  | .power => { b with power := d.extractLsb' 0 8 }
  | .rebootCtrl => { b with rebootCtrl := d.extractLsb' 0 8 }
  | .rebootAddr => { b with rebootAddr := d }
  | .drpAdr => { b with drpAdr := d.extractLsb' 0 7 }
  | .drpDatW => { b with drpDatW := d.extractLsb' 0 16 }
  | .drpDatR | .drpReady => b
  | .drpRead | .drpWrite => b
  | .evPending _ => b
  | .evEnable k =>
    { b with ev := b.ev.modify k.toNat fun m => { m with enable := d &&& sourceMask (cfg.sources k.toNat) } }
  | .evPolarity k =>
    { b with ev := b.ev.modify k.toNat fun m => { m with polarity := d &&& polarityMask (cfg.sources k.toNat) } }

/-- `MemRead(addr, size)`: the request of a CPU load from `addr` (00_scope R16, 20_memory R51). -/
def memRead (cfg : Config) (addr : Word) (size : Nat) : Request := .read (addr - cfg.csrBase) size

/-- `MemWrite(addr, size, d)`: the request of a CPU store to `addr` (00_scope R16, 20_memory R51). -/
def memWrite (cfg : Config) (addr : Word) (size : Nat) (d : Word) : Request := .write (addr - cfg.csrBase) size d

end Sys2Proof.Machine
end

