-- ==== Sys2Proof/Machine/Flags.lean ====
section
/-! DEFINITION. The status flags of the block (10_state R39) and what sets them: synchronized signals, edge
detection, the pending latch, the aggregated interrupt line, the authorization pattern. -/

namespace Sys2Proof.Machine

/-- `sync_out[c]`: the last stage of chain `c` at the start of the cycle (42_synchronizer R153). -/
def Block.syncOut (cfg : Config) (b : Block) (c : Nat) : Bool :=
  match b.sync[c]? with
  | some ch => ch.stages.getD (cfg.syncStages - 1) false
  | none => false

/-- `sig` of source `i` of manager `k` (41_event_manager R122). A source of kind `async` sees the synchronized
output only, never the raw input. -/
def sourceSignal (cfg : Config) (b : Block) (inp : Input) (k i : Nat) (src : Source) : Bool :=
  match src.input with
  | .async c => b.syncOut cfg c
  | .inDomain => (inp.evin.getD k 0#32).getLsbD i

/-- `v`, the detector's input: `sig`, or `sig ^ POLARITY[i]` for a `SelectablePolarity` source
(41_event_manager R122, R125). -/
def detectorInput (policy : EdgePolicy) (sig pol : Bool) : Bool :=
  match policy with
  | .risingPulse => sig
  | .fallingLatched => sig
  | .selectablePolarity => sig ^^ pol

/-- `ev`, the event of the cycle (41_event_manager R123, R124, R125). -/
def edgeEvent (policy : EdgePolicy) (v prev : Bool) : Bool :=
  match policy with
  | .risingPulse => v && !prev
  | .fallingLatched => !v && prev
  | .selectablePolarity => v && !prev

/-- The pending latch of one bit: a set wins over a clear (41_event_manager R127). -/
def pendingNext (event pending clear : Bool) : Bool := event || (pending && !clear)

/-- `v` of source `i` of manager `k`, from the polarity the state holds. -/
def sourceInput (cfg : Config) (b : Block) (inp : Input) (k i : Nat) (m : EvManager) (src : Source) : Bool :=
  detectorInput src.policy (sourceSignal cfg b inp k i src) (m.polarity.getLsbD i)

/-- `ev` of source `i` of manager `k`. -/
def sourceEvent (cfg : Config) (b : Block) (inp : Input) (k i : Nat) (m : EvManager) (src : Source) : Bool :=
  edgeEvent src.policy (sourceInput cfg b inp k i m src) (m.prev.getLsbD i)

/-- One cycle of manager `k`: pending latch and edge history of every source at once (41_event_manager R126,
R127, R130). `clear` is the data of a write to its PENDING register, 0 where there is none. -/
def EvManager.next (cfg : Config) (b : Block) (inp : Input) (clear : Word) (k : Nat) (m : EvManager) : EvManager :=
  { m with
    pending := packSources (cfg.sources k) fun i src =>
      pendingNext (sourceEvent cfg b inp k i m src) (m.pending.getLsbD i) (clear.getLsbD i)
    prev := packSources (cfg.sources k) fun i src => sourceInput cfg b inp k i m src }

/-- `irq[k]`: some bit of a source is pending and enabled (41_event_manager R128). -/
def EvManager.irq (cfg : Config) (k : Nat) (m : EvManager) : Bool :=
  m.pending &&& m.enable &&& sourceMask (cfg.sources k) != 0#32

/-- `auth(x)`: the warm-reboot pattern `1010 11xx` (44_warm_reboot R190). -/
def auth (x : BitVec 8) : Bool := x &&& 0xFC#8 == 0xAC#8

end Sys2Proof.Machine
end

