-- ==== Sys2Proof/Machine/Outputs.lean ====
section
/-! DEFINITION. The outputs of a cycle, each by the rule that defines it (10_state R41). -/

namespace Sys2Proof.Machine

/-- The strobe of a cycle (45_clock_port R213): none, of DRP_READ, of DRP_WRITE. -/
inductive Strobe where
  | none
  | read
  | write
deriving DecidableEq, Repr

/-- `mem_s0 = state[0] & ~rst`: memory isolation is forced while reset is asserted (43_power_sequencer R176). -/
def memS0 (power : BitVec 8) (rst : Bool) : Bool := power.getLsbD 3 && !rst

/-- `reboot_req = auth(REBOOT_CTRL) & ~rst` (44_warm_reboot R190). -/
def rebootReq (rebootCtrl : BitVec 8) (rst : Bool) : Bool := auth rebootCtrl && !rst

/-- `irq[k]` for every manager of the build (41_event_manager R128). -/
def Block.irqLines (cfg : Config) (b : Block) : List Bool :=
  (List.range cfg.numEv).map fun k => (b.managerAt k).irq cfg k

/-- `sync_out[c]` for every channel of the build (42_synchronizer R153). -/
def Block.syncOuts (cfg : Config) (b : Block) : List Bool :=
  (List.range cfg.numAsync).map (b.syncOut cfg)

/-- The outputs of a cycle that starts in `b` (10_state R41). `rdata` is the bus read data, and `held` says that
the CPU was held in reset in the cycle before (44_warm_reboot R192). -/
def Block.outputs (cfg : Config) (b : Block) (rst : Bool) (strobe : Strobe) (rdata : Word) (held : Bool) : Outputs where
  rdata := rdata
  irq := b.irqLines cfg
  audioOn := b.power.getLsbD 0
  sysOn := b.power.getLsbD 1
  snoopAllowN := !b.power.getLsbD 2
  memS0 := memS0 b.power rst
  memS1 := b.power.getLsbD 4
  noisebiasOn := b.power.getLsbD 5
  noiseOn := b.power.extractLsb' 6 2
  rebootReq := rebootReq b.rebootCtrl rst
  resetVector := b.rebootAddr
  drpEn := strobe != .none
  drpWe := strobe == .write
  drpAddr := b.drpAdr
  drpDi := b.drpDatW
  syncOut := b.syncOuts cfg
  cpuReset := rst || rebootReq b.rebootCtrl rst
  cpuStart := if held && !(rst || rebootReq b.rebootCtrl rst) then some b.rebootAddr else none

end Sys2Proof.Machine
end

