-- ==== Sys2Proof/Machine/Ops.lean ====
section
/-! DEFINITION. The cycle step (40_register_bus R100) as shared operations: the hardware's own updates, the
bus action, the warm-reboot self-reset, the reset cycle, and the transaction frame every meaning goes through. -/

namespace Sys2Proof.Machine

/-- What the bus does in a cycle: the data a read returns, a strobe, a clear of a PENDING register, a store
into a read-write register. -/
structure BusAction where
  rdata : Option Word := none
  strobe : Strobe := .none
  clear : Option (BitVec 4 × Word) := none
  store : Option (RegRef × Word) := none
deriving DecidableEq, Repr

/-- The data written to the PENDING register of manager `k` in this cycle; 0 where there is no such write. -/
def BusAction.clearOf (a : BusAction) (k : Nat) : Word :=
  match a.clear with
  | some (j, d) => if j.toNat = k then d else 0#32
  | none => 0#32

/-- The input of the coming cycle: the first one listed, or else a free one (log 3). -/
def State.input (s : State) : Input :=
  match s.inputs with
  | inp :: _ => inp
  | [] => Config.freeInput s.cycle

/-- `rst = rst_in | ~pll_locked` (70_reset_and_hazards R250). -/
def resetLine (inp : Input) : Bool := inp.rstIn || !inp.pllLocked

/-- The coming cycle is a reset cycle. -/
def State.inReset (s : State) : Bool := resetLine s.input

/-- Stage 0 of a chain (42_synchronizer R152): the raw value where it did not change, else the draw between the
new and the previous one. -/
def sampleRaw (takesNew now last : Bool) : Bool := if now == last then now else if takesNew then now else last

/-- One cycle of a chain of `n` stages (42_synchronizer R152). -/
def SyncChain.next (n : Nat) (now takesNew : Bool) (ch : SyncChain) : SyncChain where
  stages := (sampleRaw takesNew now ch.aLast :: ch.stages).take n
  aLast := now

/-- Every chain of the block, each with its own raw input and its own draw (42_synchronizer R152, R156). -/
def Block.syncNext (cfg : Config) (b : Block) (inp : Input) : List SyncChain :=
  b.sync.mapIdx fun c ch => ch.next cfg.syncStages (inp.raw.getD c false) (inp.draws.stage0.getD c false)

/-- Every event manager of the block (41_event_manager R126, R127). -/
def Block.evNext (cfg : Config) (b : Block) (inp : Input) (a : BusAction) : List EvManager :=
  b.ev.mapIdx fun k m => m.next cfg b inp (a.clearOf k) k

/-- The clock port's completion (45_clock_port R214). -/
def Block.complete (b : Block) (inp : Input) : Block :=
  match b.drpBusy, inp.drpRdy with
  | .idle, _ => b
  | _, false => b
  | .rd, true => { b with drpDatR := inp.drpDo, drpBusy := .idle, drpReady := true }
  | .wr, true => { b with drpBusy := .idle, drpReady := true }

/-- What the hardware does by itself in a non-reset cycle (40_register_bus R100, R105): the event managers, the
chains, the completion. Every right-hand side reads the state at the start of the cycle. -/
def Block.hardware (cfg : Config) (b : Block) (inp : Input) (a : BusAction) : Block :=
  { b.complete inp with ev := b.evNext cfg inp a, sync := b.syncNext cfg inp }

/-- A strobe makes the port busy and not ready (45_clock_port R210, R212). -/
def Block.strobe (b : Block) : Strobe → Block
  | .none => b
  | .read => { b with drpBusy := .rd, drpReady := false }
  | .write => { b with drpBusy := .wr, drpReady := false }

/-- The store of a bus action, if it has one (40_register_bus R101). -/
def Block.store (cfg : Config) (b : Block) (a : BusAction) : Block :=
  match a.store with
  | some (r, d) => r.put cfg d b
  | none => b

/-- The warm-reboot self-reset (44_warm_reboot R198), after every other update: `b` is the state at the start of
the cycle, `b'` the updated one. -/
def Block.warmReset (cfg : Config) (b b' : Block) : Block :=
  if auth b.rebootCtrl then
    match cfg.warmResetScope with
    | .none => b'
    | .ctrlOnly => { b' with rebootCtrl := 0#8 }
    | .all => { Block.reset cfg with rebootAddr := b.rebootAddr }
    | .allInclAddr => Block.reset cfg
  else b'

/-- The next state record of a non-reset cycle with bus action `a` (40_register_bus R100). The stores and the
hardware write different fields, except PENDING, whose one equation takes the clear (41_event_manager R127). -/
def Block.next (cfg : Config) (b : Block) (inp : Input) (a : BusAction) : Block :=
  b.warmReset cfg (((b.hardware cfg inp a).strobe a.strobe).store cfg a)

/-- A non-reset cycle with bus action `a`: the next record, and the outputs of the cycle (10_state R41). Where
the action reads nothing, `rdata` is the cycle's draw (40_register_bus R105, log 5). -/
def busCycle (a : BusAction) (s : State) : State where
  cfg := s.cfg
  blk := s.blk.next s.cfg s.input a
  cycle := s.cycle + 1
  inputs := s.inputs.tail
  out := s.blk.outputs s.cfg false a.strobe (a.rdata.getD s.input.draws.rdata) s.out.cpuReset

/-- A reset cycle (70_reset_and_hazards R251, R252): the next record is `RESET` whatever the request, the outputs
are those of `RESET` with `rst = 1`, and read data is a draw. -/
def resetCycle (s : State) : State where
  cfg := s.cfg
  blk := Block.reset s.cfg
  cycle := s.cycle + 1
  inputs := s.inputs.tail
  out := (Block.reset s.cfg).outputs s.cfg true .none s.input.draws.rdata s.out.cpuReset

/-- An idle cycle (40_register_bus R105). -/
def idleCycle (s : State) : State := busCycle {} s

/-- A cycle whose request is transaction `i` with bus action `a`: without effect in a reset cycle
(70_reset_and_hazards R252), a fault where the build has no such register (30_encoding R72), else the cycle. -/
def transact (i : Instr) (a : BusAction) (s : State) : Host.Outcome State Fault Refusal :=
  if s.inReset then .next (resetCycle s)
  else if i.wellFormed s.cfg then .next (busCycle a s)
  else .fault (.unmapped (encode i))

/-- A read of register `r` (40_register_bus R101 to R104): the register as it stands at the start of the cycle. -/
def busRead (i : Instr) (r : RegRef) (s : State) : Host.Outcome State Fault Refusal :=
  transact i { rdata := some (r.get s.cfg s.blk) } s

/-- A write of `d` to the read-write register `r` (40_register_bus R101). -/
def busWrite (i : Instr) (r : RegRef) (d : Word) (s : State) : Host.Outcome State Fault Refusal :=
  transact i { store := some (r, d) } s

/-- A write to a read-only register: decoded, completed, without effect (40_register_bus R102). -/
def busWriteIgnored (i : Instr) (s : State) : Host.Outcome State Fault Refusal := transact i {} s

/-- A write of `d` to the PENDING register of manager `k` (40_register_bus R104). -/
def busClear (i : Instr) (k : BitVec 4) (d : Word) (s : State) : Host.Outcome State Fault Refusal :=
  transact i { clear := some (k, d) } s

/-- A write to a strobe register (40_register_bus R103), which faults while a request is outstanding
(45_clock_port R215) but not in a reset cycle (60_exceptions R233). -/
def busStrobe (i : Instr) (strobe : Strobe) (s : State) : Host.Outcome State Fault Refusal :=
  if s.inReset || s.blk.drpBusy == .idle then transact i { strobe := strobe } s
  else .fault (.drpOverlap (encode i) s.blk.drpBusy)

end Sys2Proof.Machine
end

