-- ==== Sys2Proof/Machine/ClockPort.lean ====
section
/-! DEFINITION. The transactions of the clock reconfiguration port (45_clock_port). -/

namespace Sys2Proof.Machine

/-- `RD.DRP_ADR` (45_clock_port R201). -/
def execRdDrpAdr (s : State) : Host.Outcome State Fault Refusal := busRead .rdDrpAdr .drpAdr s

/-- `WR.DRP_ADR` (45_clock_port R202). -/
def execWrDrpAdr (d : Word) (s : State) : Host.Outcome State Fault Refusal := busWrite (.wrDrpAdr d) .drpAdr d s

/-- `RD.DRP_DAT_W` (45_clock_port R203). -/
def execRdDrpDatW (s : State) : Host.Outcome State Fault Refusal := busRead .rdDrpDatW .drpDatW s

/-- `WR.DRP_DAT_W` (45_clock_port R204). -/
def execWrDrpDatW (d : Word) (s : State) : Host.Outcome State Fault Refusal := busWrite (.wrDrpDatW d) .drpDatW d s

/-- `RD.DRP_DAT_R` (45_clock_port R205). -/
def execRdDrpDatR (s : State) : Host.Outcome State Fault Refusal := busRead .rdDrpDatR .drpDatR s

/-- `WR.DRP_DAT_R` (45_clock_port R206): status fields ignore writes. -/
def execWrDrpDatR (d : Word) (s : State) : Host.Outcome State Fault Refusal := busWriteIgnored (.wrDrpDatR d) s

/-- `RD.DRP_READY` (45_clock_port R207). -/
def execRdDrpReady (s : State) : Host.Outcome State Fault Refusal := busRead .rdDrpReady .drpReady s

/-- `WR.DRP_READY` (45_clock_port R208): software cannot set or clear ready. -/
def execWrDrpReady (d : Word) (s : State) : Host.Outcome State Fault Refusal := busWriteIgnored (.wrDrpReady d) s

/-- `RD.DRP_READ` (45_clock_port R209): reads 0 and issues no request. -/
def execRdDrpRead (s : State) : Host.Outcome State Fault Refusal := busRead .rdDrpRead .drpRead s

/-- `WR.DRP_READ` (45_clock_port R210): any data strobes a read request. -/
def execWrDrpRead (d : Word) (s : State) : Host.Outcome State Fault Refusal := busStrobe (.wrDrpRead d) .read s

/-- `RD.DRP_WRITE` (45_clock_port R211): reads 0 and issues no request. -/
def execRdDrpWrite (s : State) : Host.Outcome State Fault Refusal := busRead .rdDrpWrite .drpWrite s

/-- `WR.DRP_WRITE` (45_clock_port R212): any data strobes a write request. -/
def execWrDrpWrite (d : Word) (s : State) : Host.Outcome State Fault Refusal := busStrobe (.wrDrpWrite d) .write s

end Sys2Proof.Machine
end

