-- ==== Sys2Proof/Machine/EventManager.lean ====
section
/-! DEFINITION. The transactions of the event managers (41_event_manager). -/

namespace Sys2Proof.Machine

/-- `RD.EV_PENDING` (41_event_manager R131): the read clears nothing. -/
def execRdEvPending (k : BitVec 4) (s : State) : Host.Outcome State Fault Refusal :=
  busRead (.rdEvPending k) (.evPending k) s

/-- `WR.EV_PENDING` (41_event_manager R132): write one to clear. -/
def execWrEvPending (k : BitVec 4) (d : Word) (s : State) : Host.Outcome State Fault Refusal :=
  busClear (.wrEvPending k d) k d s

/-- `RD.EV_ENABLE` (41_event_manager R133). -/
def execRdEvEnable (k : BitVec 4) (s : State) : Host.Outcome State Fault Refusal :=
  busRead (.rdEvEnable k) (.evEnable k) s

/-- `WR.EV_ENABLE` (41_event_manager R134). -/
def execWrEvEnable (k : BitVec 4) (d : Word) (s : State) : Host.Outcome State Fault Refusal :=
  busWrite (.wrEvEnable k d) (.evEnable k) d s

/-- `RD.EV_POLARITY` (41_event_manager R135). -/
def execRdEvPolarity (k : BitVec 4) (s : State) : Host.Outcome State Fault Refusal :=
  busRead (.rdEvPolarity k) (.evPolarity k) s

/-- `WR.EV_POLARITY` (41_event_manager R136). -/
def execWrEvPolarity (k : BitVec 4) (d : Word) (s : State) : Host.Outcome State Fault Refusal :=
  busWrite (.wrEvPolarity k d) (.evPolarity k) d s

end Sys2Proof.Machine
end

