-- ==== Sys2Proof/Machine/Power.lean ====
section
/-! DEFINITION. The transactions of the power sequencer (43_power_sequencer). -/

namespace Sys2Proof.Machine

/-- `RD.POWER` (43_power_sequencer R171). -/
def execRdPower (s : State) : Host.Outcome State Fault Refusal := busRead .rdPower .power s

/-- `WR.POWER` (43_power_sequencer R172). -/
def execWrPower (d : Word) (s : State) : Host.Outcome State Fault Refusal := busWrite (.wrPower d) .power d s

end Sys2Proof.Machine
end

