-- ==== Sys2Proof/Machine/Reboot.lean ====
section
/-! DEFINITION. The transactions of the warm-reboot controller (44_warm_reboot). -/

namespace Sys2Proof.Machine

/-- `RD.REBOOT_CTRL` (44_warm_reboot R193). -/
def execRdRebootCtrl (s : State) : Host.Outcome State Fault Refusal := busRead .rdRebootCtrl .rebootCtrl s

/-- `WR.REBOOT_CTRL` (44_warm_reboot R194). -/
def execWrRebootCtrl (d : Word) (s : State) : Host.Outcome State Fault Refusal :=
  busWrite (.wrRebootCtrl d) .rebootCtrl d s

/-- `RD.REBOOT_ADDR` (44_warm_reboot R195). -/
def execRdRebootAddr (s : State) : Host.Outcome State Fault Refusal := busRead .rdRebootAddr .rebootAddr s

/-- `WR.REBOOT_ADDR` (44_warm_reboot R196). -/
def execWrRebootAddr (d : Word) (s : State) : Host.Outcome State Fault Refusal :=
  busWrite (.wrRebootAddr d) .rebootAddr d s

end Sys2Proof.Machine
end

