-- ==== Sys2Proof/Machine/Dispatch.lean ====
section
/-! DEFINITION. One arm per transaction: the bus cycle whose request is that transaction. -/

namespace Sys2Proof.Machine

def exec (i : Instr) (s : State) : Host.Outcome State Fault Refusal :=
  match i with
  | .rdPower => Sys2Proof.Machine.execRdPower s
  | .wrPower d => Sys2Proof.Machine.execWrPower d s
  | .rdRebootCtrl => Sys2Proof.Machine.execRdRebootCtrl s
  | .wrRebootCtrl d => Sys2Proof.Machine.execWrRebootCtrl d s
  | .rdRebootAddr => Sys2Proof.Machine.execRdRebootAddr s
  | .wrRebootAddr d => Sys2Proof.Machine.execWrRebootAddr d s
  | .rdDrpAdr => Sys2Proof.Machine.execRdDrpAdr s
  | .wrDrpAdr d => Sys2Proof.Machine.execWrDrpAdr d s
  | .rdDrpDatW => Sys2Proof.Machine.execRdDrpDatW s
  | .wrDrpDatW d => Sys2Proof.Machine.execWrDrpDatW d s
  | .rdDrpDatR => Sys2Proof.Machine.execRdDrpDatR s
  | .wrDrpDatR d => Sys2Proof.Machine.execWrDrpDatR d s
  | .rdDrpReady => Sys2Proof.Machine.execRdDrpReady s
  | .wrDrpReady d => Sys2Proof.Machine.execWrDrpReady d s
  | .rdDrpRead => Sys2Proof.Machine.execRdDrpRead s
  | .wrDrpRead d => Sys2Proof.Machine.execWrDrpRead d s
  | .rdDrpWrite => Sys2Proof.Machine.execRdDrpWrite s
  | .wrDrpWrite d => Sys2Proof.Machine.execWrDrpWrite d s
  | .rdEvPending k => Sys2Proof.Machine.execRdEvPending k s
  | .wrEvPending k d => Sys2Proof.Machine.execWrEvPending k d s
  | .rdEvEnable k => Sys2Proof.Machine.execRdEvEnable k s
  | .wrEvEnable k d => Sys2Proof.Machine.execWrEvEnable k d s
  | .rdEvPolarity k => Sys2Proof.Machine.execRdEvPolarity k s
  | .wrEvPolarity k d => Sys2Proof.Machine.execWrEvPolarity k d s

end Sys2Proof.Machine
end

