-- ==== Sys2Proof/Machine/Step.lean ====
section
/-! DEFINITION. One bus cycle (40_register_bus R100), and how the host places a transaction as the request of
the next cycle. -/

namespace Sys2Proof.Machine

/-- The fault of a request that decode rejects, recording the request (60_exceptions R231). -/
def decodeFault (req : Request) : DecodeFault → Fault
  | .badWidth => .badWidth req
  | .unmapped => .unmapped req

/-- One bus cycle (40_register_bus R100): a reset cycle has no fault and no transaction
(70_reset_and_hazards R252); otherwise the request is decoded and its transaction, or the idle cycle, runs. -/
def step (s : State) : Host.Outcome State Fault Refusal :=
  if s.inReset then .next (resetCycle s)
  else match decode s.cfg s.input.req with
    | .idle => .next (idleCycle s)
    | .transaction i => exec i s
    | .rejected why => .fault (decodeFault s.input.req why)

/-- The input of the next cycle with its request replaced and reset released; where the state lists none, the
quiet environment of 95_test_vectors section 0, its raw inputs unchanged since the last cycle. -/
def State.inputWithRequest (s : State) (req : Request) : Input :=
  match s.inputs with
  | inp :: _ => { inp with req := req, rstIn := false, pllLocked := true }
  | [] => { Input.quiet with req := req, raw := s.blk.sync.map SyncChain.aLast }

/-- The state in which the bus master issues, in the very next cycle, the transaction the host numbers `w`
(log 6). It stands for the CPU executing the load or store. -/
def State.withFetchWord (s : State) (nbits w : Nat) : State :=
  { s with inputs := s.inputWithRequest ((requestOfWord nbits w).getD .idle) :: s.inputs.tail }

end Sys2Proof.Machine
end

