-- ==== Sys2Proof/Machine/Program.lean ====
section
/-! DEFINITION. The bus-program notation (30_encoding R81) and its pseudo-instructions (R82) as lists of cycle
inputs. What a line leaves to the run (how often a poll repeats, the value a read returned) is an argument. -/

namespace Sys2Proof.Machine

/-- A line of a bus program (30_encoding R81). The `env` lines take no bus cycle of their own. -/
inductive Line where
  | wr (i : Instr)
  | rd (i : Instr)
  | idle (n : Nat)
  | envRstIn (v : Bool)
  | envPllLocked (v : Bool)
  | envRaw (c : Nat) (v : Bool)
  | envEvin (k i : Nat) (v : Bool)
  | envDrpRdy (drpDo : BitVec 16)
deriving DecidableEq, Repr

/-- `xs` with its entry `n` replaced; entries before it that are missing are `fill`. -/
def setPadded {α : Type} (fill : α) (v : α) : Nat → List α → List α
  | 0, [] => [v]
  | 0, _ :: xs => v :: xs
  | n + 1, [] => fill :: setPadded fill v n []
  | n + 1, x :: xs => x :: setPadded fill v n xs

/-- Bit `i` of `w` set to `v`. -/
def setBit (w : Word) (i : Nat) (v : Bool) : Word :=
  if v then w ||| BitVec.twoPow 32 i else w &&& ~~~(BitVec.twoPow 32 i)

/-- The cycle inputs of a program, in the environment `env` that holds from its first line on. `drp_rdy` and
`drp_do` hold for one cycle, every other signal until it is set again (30_encoding R81). -/
def scriptFrom (env : Input) : List Line → List Input
  | [] => []
  | .wr i :: rest => { env with req := encode i } :: scriptFrom { env with drpRdy := false, drpDo := 0#16 } rest
  | .rd i :: rest => { env with req := encode i } :: scriptFrom { env with drpRdy := false, drpDo := 0#16 } rest
  | .idle 0 :: rest => scriptFrom env rest
  | .idle (n + 1) :: rest =>
    { env with req := .idle } :: (List.replicate n { env with req := .idle, drpRdy := false, drpDo := 0#16 } ++
      scriptFrom { env with drpRdy := false, drpDo := 0#16 } rest)
  | .envRstIn v :: rest => scriptFrom { env with rstIn := v } rest
  | .envPllLocked v :: rest => scriptFrom { env with pllLocked := v } rest
  | .envRaw c v :: rest => scriptFrom { env with raw := setPadded false v c env.raw } rest
  | .envEvin k i v :: rest =>
    scriptFrom { env with evin := setPadded 0#32 (setBit (env.evin.getD k 0#32) i v) k env.evin } rest
  | .envDrpRdy d :: rest => scriptFrom { env with drpRdy := true, drpDo := d } rest

/-- The cycle inputs of a program that starts in the quiet environment (95_test_vectors section 0). -/
def script (lines : List Line) : List Input := scriptFrom Input.quiet lines

/-- `clr_ev k, MASK` (30_encoding R82). -/
def clrEv (k : BitVec 4) (mask : Word) : List Line := [.wr (.wrEvPending k mask)]

/-- `poll REG, MASK, VAL` that ends at its `n+1`-th read, with `j` idle cycles between two reads
(30_encoding R82). `i` is the read of REG. -/
def pollLines (i : Instr) (j : Nat) : Nat → List Line
  | 0 => [.rd i]
  | n + 1 => .rd i :: .idle j :: pollLines i j n

/-- A value ends a poll (30_encoding R82). -/
def pollEnds (mask val v : Word) : Bool := v &&& mask == val

/-- The value `setf REG, hi:lo, V` writes after reading `v` (30_encoding R82). -/
def setField (v : Word) (hi lo : Nat) (new : Word) : Word :=
  let f : Word := BitVec.ofNat 32 ((2 ^ (hi + 1 - lo) - 1) * 2 ^ lo)
  (v &&& ~~~f) ||| ((new <<< lo) &&& f)

/-- `setf REG, hi:lo, V` where the read returned `v`, with `j` idle cycles between (30_encoding R82). -/
def setfLines (read : Instr) (write : Word → Instr) (hi lo : Nat) (new v : Word) (j : Nat) : List Line :=
  [.rd read, .idle j, .wr (write (setField v hi lo new))]

/-- `drp_rd A` whose poll ends at its `n+1`-th read (30_encoding R82). -/
def drpRdLines (a : Word) (j n : Nat) : List Line :=
  [.wr (.wrDrpAdr a), .wr (.wrDrpRead 0#32)] ++ pollLines .rdDrpReady j n ++ [.rd .rdDrpDatR]

/-- `drp_wr A, V` whose poll ends at its `n+1`-th read (30_encoding R82). -/
def drpWrLines (a v : Word) (j n : Nat) : List Line :=
  [.wr (.wrDrpAdr a), .wr (.wrDrpDatW v), .wr (.wrDrpWrite 0#32)] ++ pollLines .rdDrpReady j n

/-- `reboot ADDR` (30_encoding R82). -/
def rebootLines (addr : Word) : List Line := [.wr (.wrRebootAddr addr), .wr (.wrRebootCtrl 0xAC#32)]

end Sys2Proof.Machine
end

