-- ==== Sys2Proof/Safety.lean ====
section
/-! DEFINITION. What counts as a good state and a good caller, in the words the statements use. -/

namespace Sys2Proof.Machine

/-- The registers of a manager use the bits of its sources only (10_state R30 to R32, R36). -/
abbrev EvManager.Inv (srcs : List Source) (m : EvManager) : Prop :=
  m.pending &&& ~~~sourceMask srcs = 0#32 ∧ m.enable &&& ~~~sourceMask srcs = 0#32 ∧
    m.polarity &&& ~~~polarityMask srcs = 0#32 ∧ m.prev &&& ~~~sourceMask srcs = 0#32

/-- The record has the shape its build gives it (10_state R20), unused bits are 0 (R33), and DRP_READY is 1
exactly when no request is outstanding (R35). -/
abbrev Block.Inv (cfg : Config) (b : Block) : Prop :=
  b.ev.length = cfg.numEv ∧
    (∀ k < cfg.numEv, (b.managerAt k).Inv (cfg.sources k)) ∧
    b.sync.length = cfg.numAsync ∧
    (∀ ch ∈ b.sync, ch.stages.length = cfg.syncStages) ∧
    (b.drpReady = true ↔ b.drpBusy = .idle)

/-- The machine invariant: a build within the bounds of 00_scope R11, and a record of its shape. -/
abbrev State.Inv (s : State) : Prop := s.cfg.WF ∧ s.blk.Inv s.cfg

/-- The coming cycle's updates stand: the warm-reboot request is not up, or its scope is `none`
(44_warm_reboot R198). -/
abbrev State.KeepsUpdates (s : State) : Prop :=
  auth s.blk.rebootCtrl = true → s.cfg.warmResetScope = .none

/-- The warm-reboot request leaves event managers, chains and clock port alone in this build. -/
abbrev State.SmallScope (s : State) : Prop :=
  s.cfg.warmResetScope = .none ∨ s.cfg.warmResetScope = .ctrlOnly

/-- The input's request is a write of REBOOT_CTRL that authorizes a warm reboot (44_warm_reboot R190, R194). -/
def authorizes (cfg : Config) (inp : Input) : Bool :=
  match decode cfg inp.req with
  | .transaction (.wrRebootCtrl d) => auth (d.extractLsb' 0 8)
  | _ => false

/-- No warm reboot resets more than REBOOT_CTRL in the next `n` cycles (44_warm_reboot R190, R194, R198): the
scope resets no more than that or, in a build of any scope, no request is up and none of the first `n` listed
inputs makes one. -/
abbrev NoWarmResetFor (n : Nat) (s : State) : Prop :=
  s.SmallScope ∨ (auth s.blk.rebootCtrl = false ∧ ∀ inp ∈ s.inputs.take n, authorizes s.cfg inp = false)

/-- A transaction that reads. -/
abbrev IsRead (i : Instr) : Prop := i.writeData = none

/-- The transaction that reads register `r` (30_encoding R77). -/
def RegRef.readInstr : RegRef → Instr
  | .power => .rdPower
  | .rebootCtrl => .rdRebootCtrl
  | .rebootAddr => .rdRebootAddr
  | .drpAdr => .rdDrpAdr
  | .drpDatW => .rdDrpDatW
  | .drpDatR => .rdDrpDatR
  | .drpReady => .rdDrpReady
  | .drpRead => .rdDrpRead
  | .drpWrite => .rdDrpWrite
  | .evPending k => .rdEvPending k
  | .evEnable k => .rdEvEnable k
  | .evPolarity k => .rdEvPolarity k

/-- The transaction that writes `d` to register `r` (30_encoding R77). -/
def RegRef.writeInstr (d : Word) : RegRef → Instr
  | .power => .wrPower d
  | .rebootCtrl => .wrRebootCtrl d
  | .rebootAddr => .wrRebootAddr d
  | .drpAdr => .wrDrpAdr d
  | .drpDatW => .wrDrpDatW d
  | .drpDatR => .wrDrpDatR d
  | .drpReady => .wrDrpReady d
  | .drpRead => .wrDrpRead d
  | .drpWrite => .wrDrpWrite d
  | .evPending k => .wrEvPending k d
  | .evEnable k => .wrEvEnable k d
  | .evPolarity k => .wrEvPolarity k d

/-- The state after a cycle that reads `v`: that of an idle cycle but for the bus data. -/
def readCycle (s : State) (v : Word) : State :=
  { idleCycle s with out := { (idleCycle s).out with rdata := v } }

/-- The data the coming cycle's request writes to the PENDING register of manager `k`; 0 where it does not. -/
def clearData (s : State) (k : Nat) : Word :=
  match decode s.cfg s.input.req with
  | .transaction (.wrEvPending j d) => if j.toNat = k then d else 0#32
  | _ => 0#32

/-- The offsets the window maps in this build (20_memory R59). -/
abbrev Mapped (cfg : Config) (a : Word) : Prop :=
  a ∈ [0x0000#32, 0x0800#32, 0x0804#32, 0x1000#32, 0x1004#32, 0x1008#32, 0x100C#32, 0x1010#32, 0x1014#32] ∨
    ∃ k < cfg.numEv, a = BitVec.ofNat 32 (0x8000 + 0x800 * k + 0x0) ∨ a = BitVec.ofNat 32 (0x8000 + 0x800 * k + 0x4) ∨
      (cfg.hasPol k = true ∧ a = BitVec.ofNat 32 (0x8000 + 0x800 * k + 0x8))

/-- The frame of a write: every read-write register but those listed reads as before, the clock port's status
and the chains are as after an idle cycle, and so are the pending bits and the edge history of every manager
but those of the listed PENDING registers. -/
abbrev WritesOnly (s t : State) (written : List RegRef) : Prop :=
  (∀ r : RegRef, r.mode = .rw → r ∉ written → r.get t.cfg t.blk = r.get s.cfg s.blk) ∧
    t.blk.drpDatR = (idleCycle s).blk.drpDatR ∧
    t.blk.sync = (idleCycle s).blk.sync ∧
    (∀ k : Nat, (∀ j : BitVec 4, RegRef.evPending j ∈ written → j.toNat ≠ k) →
      (t.blk.managerAt k).pending = ((idleCycle s).blk.managerAt k).pending) ∧
    (∀ k : Nat, (t.blk.managerAt k).prev = ((idleCycle s).blk.managerAt k).prev) ∧
    t.cfg = s.cfg ∧ t.inputs = s.inputs.tail

/-- A write leaves the clock port's handshake as an idle cycle does. -/
abbrev HandshakeAsIdle (s t : State) : Prop :=
  t.blk.drpReady = (idleCycle s).blk.drpReady ∧ t.blk.drpBusy = (idleCycle s).blk.drpBusy

/-- The coming cycle decodes a strobe of the clock port. -/
def strobes (s : State) : Bool :=
  match decode s.cfg s.input.req with
  | .transaction (.wrDrpRead _) => true
  | .transaction (.wrDrpWrite _) => true
  | _ => false

/-- What the caller knows after the coming cycle, if it knew `seen` before: whether it has read DRP_READY = 1
since its last strobe (45_clock_port R218). A reset cycle answers no read and issues no strobe, and the caller
is itself in reset; it keeps what it knew. -/
def seenReady (seen : Bool) (s : State) : Bool :=
  if s.inReset then seen
  else match decode s.cfg s.input.req with
    | .transaction .rdDrpReady => seen || s.blk.drpReady
    | .transaction (.wrDrpRead _) => false
    | .transaction (.wrDrpWrite _) => false
    | _ => seen

/-- The caller keeps the clock port's contract for `n` cycles from `s` (45_clock_port R218): it strobes only when
it has read DRP_READY = 1 since its last strobe. -/
def KeepsContract : Nat → Bool → State → Prop
  | 0, _, _ => True
  | n + 1, seen, s =>
    (strobes s = true → s.inReset = false → seen = true) ∧
      ∀ t, step s = .next t → KeepsContract n (seenReady seen s) t

/-- The first `n` listed inputs of `s` are non-reset cycles. -/
abbrev NoResetFor (n : Nat) (s : State) : Prop :=
  n ≤ s.inputs.length ∧ ∀ inp ∈ s.inputs.take n, resetLine inp = false

/-- A chain whose stages and last raw value are all `u`. -/
abbrev SteadyChain (n : Nat) (u : Bool) (ch : SyncChain) : Prop :=
  ch = SyncChain.reset n u

end Sys2Proof.Machine
end

