-- ==== Sys2Proof/Certificates/Slice0/Obligations.lean ====
section
/-! DEFINITION. The statements for the provers, each formalising the rules its docstring names. -/

open Sys2Proof Sys2Proof.Machine

-- ==== Encoding ====

/-- 30_encoding R71, R72, R77: every transaction the build has is what its own request decodes to. -/
def Obligations.DecodeOfEncodeIsTheTransaction : Prop :=
  ∀ (cfg : Config) (i : Instr), i.wellFormed cfg = true → decode cfg (encode i) = .transaction i

/-- 30_encoding R72: a request that decodes to a transaction is that transaction's own request, of a register
the build has; so no bit of a request is dropped. -/
def Obligations.DecodedRequestIsItsEncoding : Prop :=
  ∀ (cfg : Config) (req : Request) (i : Instr), decode cfg req = .transaction i →
    req = encode i ∧ i.wellFormed cfg = true

/-- 30_encoding R73: no two rows of the opcode table match one request word, with the reason the rule gives. -/
def Obligations.OpcodeRowsDoNotOverlap : Prop :=
  (∀ (rq : BitVec 33) (i j : Nat) (r r' : OpcodeRow), opcodeTable[i]? = some r → opcodeTable[j]? = some r' →
      r.selects rq = true → r'.selects rq = true → i = j) ∧
    (∀ r ∈ fixedRows, r.mask = BitVec.allOnes 33 ∧ r.pattern.getLsbD 15 = false) ∧
    (∀ r ∈ evRows, r.pattern.getLsbD 15 = true ∧
      ∀ b < 33, r.mask.getLsbD b = !(decide (11 ≤ b) && decide (b ≤ 14)))

/-- 30_encoding R71: words of the opcode table, written out from its fields, and the transactions they are. How
request word and data are packed into one number is the model's choice (log 6). -/
def Obligations.WrittenOutWordsDecode : Prop :=
  decodeTableWord 40 0x000000000 = some .rdPower ∧
    decodeTableWord 72 (0x100000804 + 0x20500000 * 2 ^ 40) = some (.wrRebootAddr 0x20500000#32) ∧
    decodeTableWord 40 0x100001010 = some (.wrDrpRead 0#32) ∧
    decodeTableWord 40 0x000008808 = some (.rdEvPolarity 1#4) ∧
    decodeTableWord 40 0x000000004 = none

/-- 20_memory R59, R60: an offset outside the map faults for a read and for a write; in a build within its bounds
every offset of the map names a register, for a read and for a write; and no two offsets name one register. -/
def Obligations.OffsetsOfTheMap : Prop :=
  (∀ (s : State) (a d : Word), s.inReset = false → ¬ Mapped s.cfg a →
      (s.input.req = .read a 4 → step s = .fault (.unmapped (.read a 4))) ∧
      (s.input.req = .write a 4 d → step s = .fault (.unmapped (.write a 4 d)))) ∧
    (∀ (cfg : Config) (a d : Word), cfg.WF → Mapped cfg a →
      (∃ i, decode cfg (.read a 4) = .transaction i) ∧ ∃ i, decode cfg (.write a 4 d) = .transaction i) ∧
    ∀ (cfg : Config) (a a' d d' : Word) (i : Instr),
      (decode cfg (.read a 4) = .transaction i → decode cfg (.read a' 4) = .transaction i → a = a') ∧
      (decode cfg (.write a 4 d) = .transaction i → decode cfg (.write a' 4 d') = .transaction i → a = a')

/-- 20_memory R52: an access of any other size than 4 raises BadWidth. -/
def Obligations.OtherSizesAreBadWidth : Prop :=
  ∀ (s : State) (a d : Word) (size : Nat), s.inReset = false → size ≠ 4 →
    (s.input.req = .read a size → step s = .fault (.badWidth (.read a size))) ∧
    (s.input.req = .write a size d → step s = .fault (.badWidth (.write a size d)))

/-- 60_exceptions R233: the order in which the faults of one request are looked for. -/
def Obligations.FaultPriority : Prop :=
  ∀ (s : State) (we : Bool) (a d : Word) (size : Nat),
    s.input.req = (if we then .write a size d else .read a size) →
    (s.inReset = true → ∃ t, step s = .next t) ∧
    (s.inReset = false → size ≠ 4 → step s = .fault (.badWidth s.input.req)) ∧
    (s.inReset = false → size = 4 → (∀ i, i.wellFormed s.cfg = true → encode i ≠ s.input.req) →
      step s = .fault (.unmapped s.input.req)) ∧
    (s.inReset = false → size = 4 → s.blk.drpBusy ≠ .idle →
      s.input.req = encode (.wrDrpRead d) ∨ s.input.req = encode (.wrDrpWrite d) →
      step s = .fault (.drpOverlap s.input.req s.blk.drpBusy))

/-- 20_memory R51, 00_scope R16: a CPU access at `CSR_BASE + a` is the request of offset `a`. The build value of
`CSR_BASE` is the model's choice in `State.reset` only (log 2); this holds for every one. -/
def Obligations.CpuAccessReachesItsOffset : Prop :=
  ∀ (cfg : Config) (a d : Word),
    memRead cfg (cfg.csrBase + a) 4 = .read a 4 ∧ memWrite cfg (cfg.csrBase + a) 4 d = .write a 4 d

-- ==== The step ====

/-- 40_register_bus R100: a request that decodes to a transaction runs it, and an idle one the idle cycle. -/
def Obligations.StepRunsTheDecodedTransaction : Prop :=
  ∀ (s : State) (i : Instr), s.inReset = false →
    (i.wellFormed s.cfg = true → s.input.req = encode i → step s = exec i s) ∧
    (s.input.req = .idle → step s = .next (idleCycle s))

/-- 00_scope R10: a step ends in a next state or in one of the named faults, never in a refusal. -/
def Obligations.StepNeverRefuses : Prop :=
  (∀ (s : State) (r : Refusal), step s ≠ .refused r) ∧
    ∀ (s : State) (i : Instr) (r : Refusal), exec i s ≠ .refused r

/-- 00_scope R13 (the parameters never change) with the model's own fields (logs 1, 3): a cycle keeps the build,
advances the cycle number and consumes one input. -/
def Obligations.StepKeepsTheBuild : Prop :=
  ∀ s t : State, step s = .next t → t.cfg = s.cfg ∧ t.cycle = s.cycle + 1 ∧ t.inputs = s.inputs.tail

/-- 10_state R20, R33, R35: the invariant of the record is kept by every step. -/
def Obligations.StepKeepsInvariant : Prop :=
  ∀ s t : State, s.Inv → step s = .next t → t.Inv

/-- 10_state R42: the reset state of every build within its bounds has the invariant. -/
def Obligations.ResetHasInvariant : Prop :=
  ∀ cfg : Config, cfg.WF → (State.resetOf cfg).Inv

/-- 40_register_bus R105: an idle cycle changes no register a write stores to; the hardware's updates are those
the other statements give. -/
def Obligations.IdleCycleStoresNothing : Prop :=
  ∀ s : State, s.inReset = false → s.KeepsUpdates → s.input.req = .idle →
    ∃ t, step s = .next t ∧ ∀ r : RegRef, r.mode = .rw → r.get t.cfg t.blk = r.get s.cfg s.blk

/-- 20_memory R56: a read has no side effect on any register: the cycle of a read leaves the state of an idle
cycle but for the bus data. -/
def Obligations.ReadsHaveNoSideEffects : Prop :=
  ∀ (s : State) (i : Instr), s.inReset = false → IsRead i → i.wellFormed s.cfg = true →
    ∃ v, exec i s = .next (readCycle s v)

/-- 40_register_bus R101: a read-write register changes by its own write only, to `d & WMASK`. -/
def Obligations.StorageChangesByItsOwnWriteOnly : Prop :=
  ∀ (s t : State) (r : RegRef), s.Inv → s.inReset = false → s.KeepsUpdates → r.mode = .rw → step s = .next t →
    (∀ d, s.input.req = encode (r.writeInstr d) → r.get t.cfg t.blk = d &&& r.writeMask s.cfg) ∧
    ((∀ d, s.input.req ≠ encode (r.writeInstr d)) → r.get t.cfg t.blk = r.get s.cfg s.blk)

/-- 40_register_bus R107: a read in the cycle after a write returns `d & WMASK` for a read-write register, 0 for
a strobe register, and what the hardware left in a read-only one. -/
def Obligations.WriteThenRead : Prop :=
  ∀ (s t : State) (r : RegRef) (d : Word), s.Inv → s.inReset = false → s.KeepsUpdates → t.inReset = false →
    (r.readInstr).wellFormed s.cfg = true → exec (r.writeInstr d) s = .next t →
    ∃ u, exec r.readInstr t = .next u ∧
      (r.mode = .rw → u.out.rdata = d &&& r.writeMask s.cfg) ∧
      (r.mode = .woStrobe → u.out.rdata = 0#32) ∧
      (r.mode = .ro → u.out.rdata = r.get s.cfg (idleCycle s).blk)

-- ==== Reset ====

/-- 10_state R42: the reset state of every build. The values of the parameters in it are the build's
(logs 1, 2). -/
def Obligations.ResetValues : Prop :=
  ∀ cfg : Config,
    (State.resetOf cfg).blk.power = 0x0A#8 ∧ (State.resetOf cfg).blk.rebootCtrl = 0x00#8 ∧
    (State.resetOf cfg).blk.rebootAddr = cfg.resetVectorDefault ∧ (State.resetOf cfg).blk.drpAdr = 0#7 ∧
    (State.resetOf cfg).blk.drpDatW = 0#16 ∧ (State.resetOf cfg).blk.drpDatR = 0#16 ∧
    (State.resetOf cfg).blk.drpReady = true ∧ (State.resetOf cfg).blk.drpBusy = .idle ∧
    (State.resetOf cfg).blk.ev.length = cfg.numEv ∧ (State.resetOf cfg).blk.sync.length = cfg.numAsync ∧
    (∀ k : Nat, ((State.resetOf cfg).blk.managerAt k).pending = 0#32 ∧
      ((State.resetOf cfg).blk.managerAt k).enable = 0#32 ∧ ((State.resetOf cfg).blk.managerAt k).polarity = 0#32 ∧
      ∀ (i : Nat) (src : Source), i < 32 → (cfg.sources k)[i]? = some src →
        ((State.resetOf cfg).blk.managerAt k).prev.getLsbD i = src.prevInit) ∧
    ∀ (c : Nat) (u : Bool), cfg.syncInit[c]? = some u →
      ∃ ch, (State.resetOf cfg).blk.sync[c]? = some ch ∧ ch.aLast = u ∧
        ch.stages = List.replicate cfg.syncStages u

/-- 70_reset_and_hazards R250, R251, R252, 44_warm_reboot R192: while the reset input is up or lock is lost, every
cycle ends in the reset state with the outputs of a reset cycle, whatever the state and the request. Three clauses
are the model's choice: the read data is the cycle's draw for an idle or write request too (log 5); `exec` of any
transaction is the reset cycle (log 10); the CPU is held in reset and does not start (log 14, the form in which
R192 is recorded). -/
def Obligations.ResetCycle : Prop :=
  ∀ s : State, s.cfg.WF → (s.input.rstIn = true ∨ s.input.pllLocked = false) →
    (∃ t, step s = .next t ∧ t.blk = Block.reset s.cfg ∧ t.out = Outputs.inReset s.cfg s.input.draws.rdata) ∧
    ∀ i : Instr, exec i s = step s

/-- 43_power_sequencer R180: isolation is forced in a reset cycle, and the first cycle after it permits access. -/
def Obligations.IsolationForcedThenReleased : Prop :=
  ∀ s t : State, s.inReset = true → step s = .next t →
    t.out.memS0 = false ∧ t.blk.power.extractLsb' 3 2 = 0b01#2 ∧
    (t.inReset = false → ∀ u, step t = .next u → u.out.memS0 = true ∧ u.out.memS1 = false) ∧
    (t.inReset = false → t.input.req = .idle → ∃ u, step t = .next u)

-- ==== Power sequencer ====

/-- 43_power_sequencer R171: a read of POWER returns it, and is nothing but a read. -/
def Obligations.PowerRead : Prop :=
  ∀ s : State, s.inReset = false → exec .rdPower s = .next (readCycle s (s.blk.power.setWidth 32))

/-- 43_power_sequencer R172: a write of POWER stores `d[7:0]`, field by field, and no other register. -/
def Obligations.PowerWrite : Prop :=
  ∀ (s : State) (d : Word), s.inReset = false → s.KeepsUpdates →
    ∃ t, exec (.wrPower d) s = .next t ∧ t.blk.power = d.extractLsb' 0 8 ∧
      t.blk.power.getLsbD 0 = d.getLsbD 0 ∧ t.blk.power.getLsbD 1 = d.getLsbD 1 ∧
      t.blk.power.getLsbD 2 = d.getLsbD 2 ∧ t.blk.power.extractLsb' 3 2 = d.extractLsb' 3 2 ∧
      t.blk.power.getLsbD 5 = d.getLsbD 5 ∧ t.blk.power.extractLsb' 6 2 = d.extractLsb' 6 2 ∧
      WritesOnly s t [.power] ∧ HandshakeAsIdle s t

/-- 43_power_sequencer R173 to R179: the rail outputs of a cycle are the fields of POWER at its start, `mem_s0`
gated by the reset; in a reset cycle POWER counts as its reset value (70_reset_and_hazards R252). -/
def Obligations.RailOutputs : Prop :=
  ∀ s t : State, step s = .next t →
    let p : BitVec 8 := if s.inReset then 0x0A#8 else s.blk.power
    t.out.audioOn = p.getLsbD 0 ∧ t.out.sysOn = p.getLsbD 1 ∧ t.out.snoopAllowN = !p.getLsbD 2 ∧
      t.out.memS0 = (p.getLsbD 3 && !s.inReset) ∧ t.out.memS1 = p.getLsbD 4 ∧
      t.out.noisebiasOn = p.getLsbD 5 ∧ t.out.noiseOn = p.extractLsb' 6 2

-- ==== Warm-reboot controller ====

/-- 44_warm_reboot R193, R195: reads of the two registers return them, and are nothing but reads. -/
def Obligations.RebootReads : Prop :=
  ∀ s : State, s.inReset = false →
    exec .rdRebootCtrl s = .next (readCycle s (s.blk.rebootCtrl.setWidth 32)) ∧
    exec .rdRebootAddr s = .next (readCycle s s.blk.rebootAddr)

/-- 44_warm_reboot R194: a write of REBOOT_CTRL stores `d[7:0]`, and the request of the next cycle follows it. -/
def Obligations.RebootCtrlWrite : Prop :=
  ∀ (s : State) (d : Word), s.inReset = false → s.KeepsUpdates →
    ∃ t, exec (.wrRebootCtrl d) s = .next t ∧ t.blk.rebootCtrl = d.extractLsb' 0 8 ∧
      WritesOnly s t [.rebootCtrl] ∧ HandshakeAsIdle s t ∧
      (t.inReset = false → ∀ u, step t = .next u → u.out.rebootReq = auth (d.extractLsb' 0 8))

/-- 44_warm_reboot R196: a write of REBOOT_ADDR stores `d`, and the vector of the next cycle is `d`. -/
def Obligations.RebootAddrWrite : Prop :=
  ∀ (s : State) (d : Word), s.inReset = false → s.KeepsUpdates →
    ∃ t, exec (.wrRebootAddr d) s = .next t ∧ t.blk.rebootAddr = d ∧
      WritesOnly s t [.rebootAddr] ∧ HandshakeAsIdle s t ∧
      (t.inReset = false → ∀ u, step t = .next u → u.out.resetVector = d)

/-- 44_warm_reboot R190: the reset request of a cycle, the pattern bit by bit, and the four authorized values. -/
def Obligations.RebootRequestPattern : Prop :=
  (∀ s t : State, step s = .next t →
      t.out.rebootReq = (decide (s.blk.rebootCtrl &&& 0xFC#8 = 0xAC#8) && !s.inReset)) ∧
    (∀ x : BitVec 8, auth x = (x.getLsbD 7 && x.getLsbD 5 && x.getLsbD 3 && x.getLsbD 2 &&
      !x.getLsbD 6 && !x.getLsbD 4)) ∧
    ∀ x : BitVec 8, auth x = true ↔ x = 0xAC#8 ∨ x = 0xAD#8 ∨ x = 0xAE#8 ∨ x = 0xAF#8

/-- 44_warm_reboot R191: the reset vector of a cycle is REBOOT_ADDR, the build's default after a reset. -/
def Obligations.ResetVectorFollowsRebootAddr : Prop :=
  ∀ s t : State, step s = .next t →
    (s.inReset = false → t.out.resetVector = s.blk.rebootAddr) ∧
    (s.inReset = true → t.out.resetVector = s.cfg.resetVectorDefault ∧
      t.blk.rebootAddr = s.cfg.resetVectorDefault)

/-- 44_warm_reboot R198: what the request resets in the block, for each scope. `t` is the cycle in the build with
scope `none`, in which no state changes; `u` is the same cycle in the build itself. -/
def Obligations.WarmResetScopes : Prop :=
  ∀ (s u : State), s.inReset = false → auth s.blk.rebootCtrl = true → step s = .next u →
    ∃ t, step { s with cfg := { s.cfg with warmResetScope := .none } } = .next t ∧
      (s.cfg.warmResetScope = .none → u.blk = t.blk) ∧
      (s.cfg.warmResetScope = .ctrlOnly → u.blk = { t.blk with rebootCtrl := 0#8 }) ∧
      (s.cfg.warmResetScope = .all → u.blk = { Block.reset s.cfg with rebootAddr := s.blk.rebootAddr }) ∧
      (s.cfg.warmResetScope = .allInclAddr → u.blk = Block.reset s.cfg)

/-- 44_warm_reboot R192, R194, R198: an authorized write makes the request in the next cycle and, where the scope
ends it, the CPU restarts in the cycle after that: at REBOOT_ADDR, or at the default under `all_incl_addr`.
The CPU's side is the spec's reading, recorded as two observations (log 14). -/
def Obligations.WarmRebootRestartsTheCpu : Prop :=
  ∀ (s : State) (d : Word), s.inReset = false → auth s.blk.rebootCtrl = false → auth (d.extractLsb' 0 8) = true →
    s.cfg.warmResetScope ≠ .none →
    ∃ t, exec (.wrRebootCtrl d) s = .next t ∧ (t.inReset = false → t.input.req = .idle →
      ∃ u, step t = .next u ∧ u.out.rebootReq = true ∧ u.out.cpuReset = true ∧ u.blk.rebootCtrl = 0#8 ∧
        (u.inReset = false → u.input.req = .idle →
          ∃ v, step u = .next v ∧ v.out.rebootReq = false ∧ v.out.cpuReset = false ∧
            v.out.cpuStart = some (if s.cfg.warmResetScope = .allInclAddr then s.cfg.resetVectorDefault
              else s.blk.rebootAddr)))

-- ==== Clock port ====

/-- 45_clock_port R201, R203, R205, R207, R209, R211: what the port's six reads return; the strobes read 0. -/
def Obligations.ClockPortReads : Prop :=
  ∀ s : State, s.inReset = false →
    exec .rdDrpAdr s = .next (readCycle s (s.blk.drpAdr.setWidth 32)) ∧
    exec .rdDrpDatW s = .next (readCycle s (s.blk.drpDatW.setWidth 32)) ∧
    exec .rdDrpDatR s = .next (readCycle s (s.blk.drpDatR.setWidth 32)) ∧
    exec .rdDrpReady s = .next (readCycle s (if s.blk.drpReady then 1#32 else 0#32)) ∧
    exec .rdDrpRead s = .next (readCycle s 0#32) ∧
    exec .rdDrpWrite s = .next (readCycle s 0#32)

/-- 45_clock_port R202, R204, R216: writes of DRP_ADR and DRP_DAT_W store `d[6:0]` and `d[15:0]`, also while a
request is outstanding, which they do not change. -/
def Obligations.ClockPortStorageWrites : Prop :=
  ∀ (s : State) (d : Word), s.inReset = false → s.KeepsUpdates →
    (∃ t, exec (.wrDrpAdr d) s = .next t ∧ t.blk.drpAdr = d.extractLsb' 0 7 ∧
      WritesOnly s t [.drpAdr] ∧ HandshakeAsIdle s t) ∧
    ∃ t, exec (.wrDrpDatW d) s = .next t ∧ t.blk.drpDatW = d.extractLsb' 0 16 ∧
      WritesOnly s t [.drpDatW] ∧ HandshakeAsIdle s t

/-- 45_clock_port R206, R208, 40_register_bus R102: a write to a read-only register is an idle cycle. -/
def Obligations.StatusFieldsIgnoreWrites : Prop :=
  ∀ (s : State) (d : Word), s.inReset = false →
    exec (.wrDrpDatR d) s = .next (idleCycle s) ∧ exec (.wrDrpReady d) s = .next (idleCycle s)

/-- 45_clock_port R210, R212, R213: a strobe with no request outstanding pulses the port's outputs in its own
cycle, with the address and data of the state for both strobes, and makes it busy and not ready, whatever the
written data and whatever `drp_rdy` says. -/
def Obligations.StrobesIssueRequests : Prop :=
  ∀ (s : State) (d : Word), s.inReset = false → s.KeepsUpdates → s.blk.drpBusy = .idle →
    (∃ t, exec (.wrDrpRead d) s = .next t ∧ t.blk.drpBusy = .rd ∧ t.blk.drpReady = false ∧
      t.out.drpEn = true ∧ t.out.drpWe = false ∧ t.out.drpAddr = s.blk.drpAdr ∧ t.out.drpDi = s.blk.drpDatW ∧
      WritesOnly s t []) ∧
    ∃ t, exec (.wrDrpWrite d) s = .next t ∧ t.blk.drpBusy = .wr ∧ t.blk.drpReady = false ∧
      t.out.drpEn = true ∧ t.out.drpWe = true ∧ t.out.drpAddr = s.blk.drpAdr ∧ t.out.drpDi = s.blk.drpDatW ∧
      WritesOnly s t []

/-- 45_clock_port R213: the port's outputs in every cycle: strobed exactly by a write to a strobe register, with
the address and data of the state; all 0 in a reset cycle. -/
def Obligations.ClockPortOutputs : Prop :=
  ∀ s t : State, step s = .next t →
    (s.inReset = false → t.out.drpEn = strobes s ∧
      (t.out.drpWe = true ↔ ∃ d, s.input.req = encode (.wrDrpWrite d)) ∧
      t.out.drpAddr = s.blk.drpAdr ∧ t.out.drpDi = s.blk.drpDatW) ∧
    (s.inReset = true → t.out.drpEn = false ∧ t.out.drpWe = false ∧ t.out.drpAddr = 0#7 ∧ t.out.drpDi = 0#16)

/-- 45_clock_port R214: completion, in a cycle whose updates stand: the data of a read, the port idle and ready;
a stray `drp_rdy` and a write's completion leave DRP_DAT_R; without completion nothing of it changes. -/
def Obligations.ClockPortCompletion : Prop :=
  ∀ s t : State, s.inReset = false → s.KeepsUpdates → step s = .next t →
    (s.blk.drpBusy ≠ .idle → s.input.drpRdy = true → t.blk.drpBusy = .idle ∧ t.blk.drpReady = true ∧
      t.blk.drpDatR = if s.blk.drpBusy = .rd then s.input.drpDo else s.blk.drpDatR) ∧
    (s.blk.drpBusy ≠ .idle → s.input.drpRdy = false → t.blk.drpBusy = s.blk.drpBusy ∧
      t.blk.drpReady = s.blk.drpReady ∧ t.blk.drpDatR = s.blk.drpDatR) ∧
    (s.blk.drpBusy = .idle → t.blk.drpDatR = s.blk.drpDatR ∧
      (strobes s = false → t.blk.drpBusy = .idle ∧ t.blk.drpReady = s.blk.drpReady))

/-- 45_clock_port R216: a request that is never answered stays outstanding, and DRP_READY 0, for any number of
cycles without a warm reset, whatever software writes to the port. -/
def Obligations.UnansweredRequestStaysOutstanding : Prop :=
  ∀ (n : Nat) (s t : State), s.Inv → NoWarmResetFor n s → NoResetFor n s → s.blk.drpBusy ≠ .idle →
    (∀ inp ∈ s.inputs.take n, inp.drpRdy = false) → core.run n s = .next t →
    t.blk.drpBusy = s.blk.drpBusy ∧ t.blk.drpReady = false

/-- 45_clock_port R205, R218: the data of a completed read stays in DRP_DAT_R for any number of cycles without a
new read request and without a warm reset. -/
def Obligations.ReadDataStaysUntilTheNextRead : Prop :=
  ∀ (n : Nat) (s t u : State), s.Inv → NoWarmResetFor (n + 1) s → s.inReset = false → s.blk.drpBusy = .rd →
    s.input.drpRdy = true → step s = .next t → NoResetFor n t →
    (∀ inp ∈ t.inputs.take n, ∀ d, inp.req ≠ encode (.wrDrpRead d)) → core.run n t = .next u →
    u.blk.drpDatR = s.input.drpDo

/-- 45_clock_port R215: a strobe while a request is outstanding faults, also in the cycle of the completion. -/
def Obligations.OverlappingStrobeFaults : Prop :=
  ∀ (s : State) (d : Word), s.inReset = false → s.blk.drpBusy ≠ .idle →
    exec (.wrDrpRead d) s = .fault (.drpOverlap (encode (.wrDrpRead d)) s.blk.drpBusy) ∧
    exec (.wrDrpWrite d) s = .fault (.drpOverlap (encode (.wrDrpWrite d)) s.blk.drpBusy)

/-- 45_clock_port R218: a caller that strobes only when it has read DRP_READY = 1 since its last strobe never
raises DrpOverlap, in any run, whatever else it asks for. -/
def Obligations.GoodCallerNeverOverlaps : Prop :=
  ∀ (n k : Nat) (seen : Bool) (s t : State) (req : Request) (busy : DrpBusy), s.Inv →
    (seen = true → s.blk.drpBusy = .idle) → KeepsContract n seen s → k < n → core.run k s = .next t →
    step t ≠ .fault (.drpOverlap req busy)

-- ==== Event managers ====

/-- 30_encoding R76: the masks: `M_k = 2^N_k - 1`, and `P_k` the bits of the selectable sources. -/
def Obligations.SourceMasks : Prop :=
  ∀ srcs : List Source, srcs.length ≤ 32 →
    sourceMask srcs = BitVec.ofNat 32 (2 ^ srcs.length - 1) ∧
    ∀ i < 32, (polarityMask srcs).getLsbD i = true ↔
      ∃ src, srcs[i]? = some src ∧ src.policy = .selectablePolarity

/-- 41_event_manager R131, R133, R135: what the three reads of a manager return. -/
def Obligations.EventManagerReads : Prop :=
  ∀ (s : State) (k : BitVec 4), s.inReset = false → k.toNat < s.cfg.numEv →
    exec (.rdEvPending k) s =
      .next (readCycle s ((s.blk.managerAt k.toNat).pending &&& sourceMask (s.cfg.sources k.toNat))) ∧
    exec (.rdEvEnable k) s =
      .next (readCycle s ((s.blk.managerAt k.toNat).enable &&& sourceMask (s.cfg.sources k.toNat))) ∧
    (s.cfg.hasPol k.toNat = true → exec (.rdEvPolarity k) s =
      .next (readCycle s ((s.blk.managerAt k.toNat).polarity &&& polarityMask (s.cfg.sources k.toNat))))

/-- 41_event_manager R132: a write of PENDING clears the bits written as 1, but not those with an event in the
cycle; bits at `N_k` and above read 0. -/
def Obligations.PendingWrite : Prop :=
  ∀ (s : State) (k : BitVec 4) (d : Word), s.Inv → s.inReset = false → s.KeepsUpdates → k.toNat < s.cfg.numEv →
    ∃ t, exec (.wrEvPending k d) s = .next t ∧ WritesOnly s t [.evPending k] ∧ HandshakeAsIdle s t ∧
      ∀ i < 32, (t.blk.managerAt k.toNat).pending.getLsbD i =
        match (s.cfg.sources k.toNat)[i]? with
        | some src => sourceEvent s.cfg s.blk s.input k.toNat i (s.blk.managerAt k.toNat) src ||
            ((s.blk.managerAt k.toNat).pending.getLsbD i && !d.getLsbD i)
        | none => false

/-- 41_event_manager R134, R136: writes of ENABLE and POLARITY store `d & M_k` and `d & P_k`. -/
def Obligations.EnableAndPolarityWrites : Prop :=
  ∀ (s : State) (k : BitVec 4) (d : Word), s.Inv → s.inReset = false → s.KeepsUpdates → k.toNat < s.cfg.numEv →
    (∃ t, exec (.wrEvEnable k d) s = .next t ∧
      (t.blk.managerAt k.toNat).enable = d &&& sourceMask (s.cfg.sources k.toNat) ∧
      WritesOnly s t [.evEnable k] ∧ HandshakeAsIdle s t) ∧
    (s.cfg.hasPol k.toNat = true → ∃ t, exec (.wrEvPolarity k d) s = .next t ∧
      (t.blk.managerAt k.toNat).polarity = d &&& polarityMask (s.cfg.sources k.toNat) ∧
      WritesOnly s t [.evPolarity k] ∧ HandshakeAsIdle s t)

/-- 41_event_manager R131 to R136: a manager the build does not have, or a POLARITY register it does not have,
faults for a read and for a write. -/
def Obligations.AbsentManagersFault : Prop :=
  ∀ (s : State) (k : BitVec 4) (d : Word), s.inReset = false →
    (s.cfg.numEv ≤ k.toNat →
      exec (.rdEvPending k) s = .fault (.unmapped (encode (.rdEvPending k))) ∧
      exec (.wrEvPending k d) s = .fault (.unmapped (encode (.wrEvPending k d))) ∧
      exec (.rdEvEnable k) s = .fault (.unmapped (encode (.rdEvEnable k))) ∧
      exec (.wrEvEnable k d) s = .fault (.unmapped (encode (.wrEvEnable k d)))) ∧
    (s.cfg.numEv ≤ k.toNat ∨ s.cfg.hasPol k.toNat = false →
      exec (.rdEvPolarity k) s = .fault (.unmapped (encode (.rdEvPolarity k))) ∧
      exec (.wrEvPolarity k d) s = .fault (.unmapped (encode (.wrEvPolarity k d))))

/-- 41_event_manager R122 to R127: one cycle of every source of every manager, from the signal to the pending bit
and the edge history, whatever the request. -/
def Obligations.PendingLatchAndEdgeHistory : Prop :=
  ∀ (s t : State) (k i : Nat) (src : Source), s.Inv → s.inReset = false → s.KeepsUpdates → step s = .next t →
    k < s.cfg.numEv → (s.cfg.sources k)[i]? = some src →
    let m := s.blk.managerAt k
    let sig := match src.input with
      | .async c => ((s.blk.sync[c]?.map fun ch => ch.stages.getD (s.cfg.syncStages - 1) false).getD false)
      | .inDomain => (s.input.evin.getD k 0#32).getLsbD i
    let v := match src.policy with
      | .risingPulse => sig
      | .fallingLatched => sig
      | .selectablePolarity => sig ^^ m.polarity.getLsbD i
    let ev := match src.policy with
      | .risingPulse => v && !m.prev.getLsbD i
      | .fallingLatched => !v && m.prev.getLsbD i
      | .selectablePolarity => v && !m.prev.getLsbD i
    (t.blk.managerAt k).pending.getLsbD i = (ev || (m.pending.getLsbD i && !(clearData s k).getLsbD i)) ∧
      (t.blk.managerAt k).prev.getLsbD i = v

/-- 41_event_manager R123, R124: over two cycles, an event is a rise (or a fall) of the signal between them: the
pending bit of an in-domain source, not set before and not cleared, is set exactly then. -/
def Obligations.EdgesBetweenTwoCycles : Prop :=
  ∀ (s t u : State) (k i : Nat) (src : Source), s.Inv → s.inReset = false → s.KeepsUpdates → step s = .next t →
    t.inReset = false → t.KeepsUpdates → step t = .next u → k < s.cfg.numEv →
    (s.cfg.sources k)[i]? = some src → src.input = .inDomain → (t.blk.managerAt k).pending.getLsbD i = false →
    (src.policy = .risingPulse → ((u.blk.managerAt k).pending.getLsbD i = true ↔
      (s.input.evin.getD k 0#32).getLsbD i = false ∧ (t.input.evin.getD k 0#32).getLsbD i = true)) ∧
    (src.policy = .fallingLatched → ((u.blk.managerAt k).pending.getLsbD i = true ↔
      (s.input.evin.getD k 0#32).getLsbD i = true ∧ (t.input.evin.getD k 0#32).getLsbD i = false))

/-- 41_event_manager R137: a signal held high makes no further event: with the edge seen and the bit clear, the
bit stays clear however many cycles without a warm reset the signal stays high. -/
def Obligations.HeldSignalMakesNoFurtherEvent : Prop :=
  ∀ (n k i : Nat) (s t : State) (src : Source), s.Inv → NoWarmResetFor n s → NoResetFor n s → k < s.cfg.numEv →
    (s.cfg.sources k)[i]? = some src → src.policy = .risingPulse → src.input = .inDomain →
    (s.blk.managerAt k).prev.getLsbD i = true → (s.blk.managerAt k).pending.getLsbD i = false →
    (∀ inp ∈ s.inputs.take n, (inp.evin.getD k 0#32).getLsbD i = true) → core.run n s = .next t →
    (t.blk.managerAt k).pending.getLsbD i = false

/-- 41_event_manager R137: no event is lost: an event of a cycle is pending after it, also when the cycle clears
the bit. -/
def Obligations.EventSurvivesItsClear : Prop :=
  ∀ (s : State) (k : BitVec 4) (d : Word) (i : Nat) (src : Source), s.Inv → s.inReset = false → s.KeepsUpdates →
    k.toNat < s.cfg.numEv → (s.cfg.sources k.toNat)[i]? = some src →
    sourceEvent s.cfg s.blk s.input k.toNat i (s.blk.managerAt k.toNat) src = true →
    ∃ t, exec (.wrEvPending k d) s = .next t ∧ (t.blk.managerAt k.toNat).pending.getLsbD i = true

/-- 41_event_manager R128: the line of a manager is up exactly when a source of it is pending and enabled, and
down in a reset cycle. -/
def Obligations.InterruptLine : Prop :=
  ∀ (s t : State) (k : Nat), s.cfg.WF → step s = .next t → k < s.cfg.numEv →
    (s.inReset = false → (t.out.irq.getD k false = true ↔ ∃ i < (s.cfg.sources k).length,
      (s.blk.managerAt k).pending.getLsbD i = true ∧ (s.blk.managerAt k).enable.getLsbD i = true)) ∧
    (s.inReset = true → t.out.irq.getD k false = false)

/-- 41_event_manager R129: the enable mask changes the interrupt lines and its own register only: two states that
differ in the enable masks alone have the same pending bits and edge history after a cycle. -/
def Obligations.EnableMasksOnlyTheLine : Prop :=
  ∀ (s t : State) (masks : Nat → Word),
    let s' : State := { s with blk := { s.blk with ev := s.blk.ev.mapIdx fun k m => { m with enable := masks k } } }
    step s = .next t → ∃ t', step s' = .next t' ∧
      { t'.out with irq := t.out.irq, rdata := t.out.rdata } = t.out ∧
      { t'.blk with ev := t.blk.ev } = t.blk ∧
      ∀ k : Nat, { t'.blk.managerAt k with enable := (t.blk.managerAt k).enable } = t.blk.managerAt k

/-- 41_event_manager R138, 60_exceptions R240: while software neither clears the bit nor takes it out of the mask,
the line of a pending and enabled source stays up, for any number of cycles without a warm reset. Writes of both
registers that leave the bit alone are allowed: those of a handler that services other sources of the manager. -/
def Obligations.UnservicedLineStaysUp : Prop :=
  ∀ (n : Nat) (k : BitVec 4) (i : Nat) (s t : State), s.Inv → NoWarmResetFor (n + 1) s → NoResetFor (n + 1) s →
    k.toNat < s.cfg.numEv → i < (s.cfg.sources k.toNat).length →
    (s.blk.managerAt k.toNat).pending.getLsbD i = true → (s.blk.managerAt k.toNat).enable.getLsbD i = true →
    (∀ inp ∈ s.inputs.take (n + 1), ∀ d, (inp.req = encode (.wrEvPending k d) → d.getLsbD i = false) ∧
      (inp.req = encode (.wrEvEnable k d) → d.getLsbD i = true)) →
    core.run (n + 1) s = .next t → t.out.irq.getD k.toNat false = true

/-- 70_reset_and_hazards R261: enabling a source whose pending bit is already 1 raises the line in the next
cycle. -/
def Obligations.StalePendingRaisesTheLine : Prop :=
  ∀ (s : State) (k : BitVec 4) (d : Word) (i : Nat), s.Inv → s.inReset = false → s.KeepsUpdates →
    k.toNat < s.cfg.numEv → i < (s.cfg.sources k.toNat).length →
    (s.blk.managerAt k.toNat).pending.getLsbD i = true → d.getLsbD i = true →
    ∃ t, exec (.wrEvEnable k d) s = .next t ∧ (t.inReset = false → t.input.req = .idle →
      ∃ u, step t = .next u ∧ u.out.irq.getD k.toNat false = true)

/-- 41_event_manager R125, 70_reset_and_hazards R266: a polarity write from 0 to 1 while the signal is 0 and
steady makes an event in the next cycle: the bit is pending two cycles after the write. -/
def Obligations.PolarityWriteMakesAnEvent : Prop :=
  ∀ (s : State) (k : BitVec 4) (d : Word) (i : Nat) (src : Source), s.Inv → s.inReset = false → s.KeepsUpdates →
    k.toNat < s.cfg.numEv → (s.cfg.sources k.toNat)[i]? = some src → src.policy = .selectablePolarity →
    (s.blk.managerAt k.toNat).polarity.getLsbD i = false → d.getLsbD i = true →
    sourceSignal s.cfg s.blk s.input k.toNat i src = false →
    ∃ t, exec (.wrEvPolarity k d) s = .next t ∧ (t.inReset = false → t.KeepsUpdates → t.input.req = .idle →
      sourceSignal t.cfg t.blk t.input k.toNat i src = false →
      ∃ u, step t = .next u ∧ (u.blk.managerAt k.toNat).pending.getLsbD i = true)

-- ==== Synchronizer ====

/-- 42_synchronizer R152: one cycle of a chain: stage 0 takes the new or the previous raw value, the other stages
shift, and `a_last` takes the raw value. -/
def Obligations.ChainStep : Prop :=
  ∀ (s t : State) (c : Nat) (ch : SyncChain), s.Inv → s.inReset = false → s.KeepsUpdates → step s = .next t →
    s.blk.sync[c]? = some ch →
    ∃ ch', t.blk.sync[c]? = some ch' ∧ ch'.stages.length = s.cfg.syncStages ∧
      (ch'.stages[0]? = some (s.input.raw.getD c false) ∨ ch'.stages[0]? = some ch.aLast) ∧
      ch'.stages[0]? = some (if s.input.draws.stage0.getD c false then s.input.raw.getD c false else ch.aLast) ∧
      (∀ j, 1 ≤ j → j < s.cfg.syncStages → ch'.stages[j]? = ch.stages[j - 1]?) ∧
      ch'.aLast = s.input.raw.getD c false

/-- 42_synchronizer R153: the synchronized output is the last stage at the start of the cycle, and a cycle reads
the raw inputs into the chains only: with other raw inputs it gives the same outputs and, but for the chains,
the same state. -/
def Obligations.RawInputsReachTheChainsOnly : Prop :=
  (∀ (s t : State) (c : Nat), s.inReset = false → step s = .next t → c < s.cfg.numAsync →
      t.out.syncOut.getD c false =
        (s.blk.sync[c]?.map fun ch => ch.stages.getD (s.cfg.syncStages - 1) false).getD false) ∧
    ∀ (s t : State) (inp : Input) (rest : List Input) (raw' : List Bool), s.inputs = inp :: rest → step s = .next t →
      ∃ t', step { s with inputs := { inp with raw := raw' } :: rest } = .next t' ∧ t'.out = t.out ∧
        { t'.blk with sync := t.blk.sync } = t.blk

/-- 42_synchronizer R154: the latency of a change. From a steady chain, without a warm reset, with the raw input at the new value from
the first of the cycles on, the output is old before cycle `N`, new from cycle `N + 1` on, and in cycle `N`
what the first cycle's draw made of it. -/
def Obligations.SynchronizerLatency : Prop :=
  ∀ (n c : Nat) (u : Bool) (s t : State) (ch : SyncChain), s.Inv → NoWarmResetFor n s → NoResetFor n s →
    s.blk.sync[c]? = some ch → SteadyChain s.cfg.syncStages u ch →
    (∀ inp ∈ s.inputs.take n, inp.raw.getD c false = !u) → core.run n s = .next t →
    (n < s.cfg.syncStages → t.blk.syncOut s.cfg c = u) ∧
    (n = s.cfg.syncStages → t.blk.syncOut s.cfg c = if s.input.draws.stage0.getD c false then !u else u) ∧
    (s.cfg.syncStages < n → t.blk.syncOut s.cfg c = !u)

/-- 42_synchronizer R155: a raw pulse of one cycle shows in cycles `N` and `N + 1` as the two draws make of it,
and in no other cycle without a warm reset, so it may be missed. -/
def Obligations.OneCyclePulse : Prop :=
  ∀ (n c : Nat) (u : Bool) (s t : State) (ch : SyncChain) (i0 i1 : Input) (rest : List Input), s.Inv →
    NoWarmResetFor n s → s.inputs = i0 :: i1 :: rest → NoResetFor n s →
    s.blk.sync[c]? = some ch → SteadyChain s.cfg.syncStages u ch →
    i0.raw.getD c false = (!u) → (∀ inp ∈ (i1 :: rest).take (n - 1), inp.raw.getD c false = u) →
    core.run n s = .next t →
    (n = s.cfg.syncStages → t.blk.syncOut s.cfg c = if i0.draws.stage0.getD c false then !u else u) ∧
    (n = s.cfg.syncStages + 1 → t.blk.syncOut s.cfg c = if i1.draws.stage0.getD c false then u else !u) ∧
    (n < s.cfg.syncStages ∨ s.cfg.syncStages + 1 < n → t.blk.syncOut s.cfg c = u)

/-- 70_reset_and_hazards R263: the latency of an event through a chain. A rising-pulse source behind a chain that
holds 0, with the raw input at 1 from the first of the cycles on, no clear of its bit and no warm reset: the bit is
still 0 after `N` cycles, is what the first cycle's draw made of it after `N + 1`, and is 1 after any more. -/
def Obligations.EventLatencyThroughTheChain : Prop :=
  ∀ (n c i : Nat) (k : BitVec 4) (s t : State) (ch : SyncChain) (src : Source), s.Inv →
    NoWarmResetFor n s → NoResetFor n s → s.blk.sync[c]? = some ch → SteadyChain s.cfg.syncStages false ch →
    k.toNat < s.cfg.numEv → (s.cfg.sources k.toNat)[i]? = some src → src.policy = .risingPulse →
    src.input = .async c → (s.blk.managerAt k.toNat).prev.getLsbD i = false →
    (s.blk.managerAt k.toNat).pending.getLsbD i = false →
    (∀ inp ∈ s.inputs.take n, inp.raw.getD c false = true ∧
      ∀ d, inp.req = encode (.wrEvPending k d) → d.getLsbD i = false) →
    core.run n s = .next t →
    (n ≤ s.cfg.syncStages → (t.blk.managerAt k.toNat).pending.getLsbD i = false) ∧
    (n = s.cfg.syncStages + 1 →
      (t.blk.managerAt k.toNat).pending.getLsbD i = s.input.draws.stage0.getD c false) ∧
    (s.cfg.syncStages + 1 < n → (t.blk.managerAt k.toNat).pending.getLsbD i = true)

-- ==== Bus programs ====

/-- 30_encoding R82: `setf` changes the bits of its field to those of V, and no other bit. -/
def Obligations.SetFieldChangesItsFieldOnly : Prop :=
  ∀ (v new : Word) (hi lo b : Nat), lo ≤ hi → hi < 32 → b < 32 →
    (setField v hi lo new).getLsbD b = if lo ≤ b ∧ b ≤ hi then new.getLsbD (b - lo) else v.getLsbD b
end

