-- ==== Sys2Proof/Laws/Bits.lean ====
section
/-! SUPPORT. What a packed word holds, bit by bit. -/

namespace Sys2Proof.Machine

/-- Bit `j` of a word packed from position `i` on. -/
theorem packFrom_getLsbD (f : Nat → Source → Bool) (srcs : List Source) (i j : Nat) :
    (packFrom f i srcs).getLsbD j =
      (decide (j < 32) && decide (i ≤ j) && ((srcs[j - i]?).map (f j)).getD false) := by
  induction srcs generalizing i with
  | nil => simp [packFrom]
  | cons src rest ih =>
    simp only [packFrom, BitVec.getLsbD_or, ih]
    rcases Nat.lt_trichotomy j i with h | h | h
    · have h1 : ¬ i ≤ j := by omega
      have h2 : ¬ i + 1 ≤ j := by omega
      have h3 : ¬ i = j := by omega
      by_cases hf : f i src <;> simp [hf, h1, h2, h3, BitVec.getLsbD_twoPow]
    · subst h
      have h2 : ¬ j + 1 ≤ j := by omega
      by_cases hf : f j src <;> simp [hf, h2, BitVec.getLsbD_twoPow]
    · have h3 : ¬ i = j := by omega
      have h4 : i ≤ j := by omega
      have h5 : i + 1 ≤ j := by omega
      have h6 : j - i = (j - (i + 1)) + 1 := by omega
      by_cases hf : f i src <;> simp [hf, h3, h4, h5, h6, BitVec.getLsbD_twoPow]

/-- Bit `i` of a packed word is `f i` of source `i`, and 0 where there is no source `i`. -/
theorem packSources_getLsbD (f : Nat → Source → Bool) (srcs : List Source) (i : Nat) :
    (packSources srcs f).getLsbD i = (decide (i < 32) && ((srcs[i]?).map (f i)).getD false) := by
  simp [packSources, packFrom_getLsbD]

/-- Bit `i` of a packed word where source `i` exists. -/
theorem packSources_getLsbD_of (f : Nat → Source → Bool) (srcs : List Source) (i : Nat) (src : Source)
    (hi : i < 32) (h : srcs[i]? = some src) : (packSources srcs f).getLsbD i = f i src := by
  rw [packSources_getLsbD, h]; simp [hi]

/-- Bit `i` of `M_k` says that source `i` exists. -/
theorem sourceMask_getLsbD (srcs : List Source) (i : Nat) :
    (sourceMask srcs).getLsbD i = (decide (i < 32) && decide (i < srcs.length)) := by
  rw [sourceMask, packSources_getLsbD]
  by_cases h : i < srcs.length <;> simp [h]

/-- A packed word lies within any mask that has the bits of its sources. -/
theorem packSources_within (f : Nat → Source → Bool) (srcs : List Source) :
    packSources srcs f &&& ~~~sourceMask srcs = 0#32 := by
  apply BitVec.eq_of_getLsbD_eq
  intro i hi
  rw [BitVec.getLsbD_and, BitVec.getLsbD_not, packSources_getLsbD, sourceMask_getLsbD]
  by_cases h : i < srcs.length <;> simp [h, hi]

end Sys2Proof.Machine
end

