-- ==== Sys2Proof/Laws/State.lean ====
section
/-! SUPPORT. What each update does to each field: one lemma per field per update, true by definition. -/

namespace Sys2Proof.Machine

variable (cfg : Config) (b b' : Block) (inp : Input) (a : BusAction) (s : State) (d : Word) (k : BitVec 4)

@[simp] theorem put_power_power : (RegRef.power.put cfg d b).power = d.extractLsb' 0 8 := rfl
@[simp] theorem put_power_rebootCtrl : (RegRef.power.put cfg d b).rebootCtrl = b.rebootCtrl := rfl
@[simp] theorem put_power_rebootAddr : (RegRef.power.put cfg d b).rebootAddr = b.rebootAddr := rfl
@[simp] theorem put_power_drpAdr : (RegRef.power.put cfg d b).drpAdr = b.drpAdr := rfl
@[simp] theorem put_power_drpDatW : (RegRef.power.put cfg d b).drpDatW = b.drpDatW := rfl
@[simp] theorem put_power_drpDatR : (RegRef.power.put cfg d b).drpDatR = b.drpDatR := rfl
@[simp] theorem put_power_drpReady : (RegRef.power.put cfg d b).drpReady = b.drpReady := rfl
@[simp] theorem put_power_drpBusy : (RegRef.power.put cfg d b).drpBusy = b.drpBusy := rfl
@[simp] theorem put_power_ev : (RegRef.power.put cfg d b).ev = b.ev := rfl
@[simp] theorem put_power_sync : (RegRef.power.put cfg d b).sync = b.sync := rfl
@[simp] theorem put_rebootCtrl_power : (RegRef.rebootCtrl.put cfg d b).power = b.power := rfl
@[simp] theorem put_rebootCtrl_rebootCtrl : (RegRef.rebootCtrl.put cfg d b).rebootCtrl = d.extractLsb' 0 8 := rfl
@[simp] theorem put_rebootCtrl_rebootAddr : (RegRef.rebootCtrl.put cfg d b).rebootAddr = b.rebootAddr := rfl
@[simp] theorem put_rebootCtrl_drpAdr : (RegRef.rebootCtrl.put cfg d b).drpAdr = b.drpAdr := rfl
@[simp] theorem put_rebootCtrl_drpDatW : (RegRef.rebootCtrl.put cfg d b).drpDatW = b.drpDatW := rfl
@[simp] theorem put_rebootCtrl_drpDatR : (RegRef.rebootCtrl.put cfg d b).drpDatR = b.drpDatR := rfl
@[simp] theorem put_rebootCtrl_drpReady : (RegRef.rebootCtrl.put cfg d b).drpReady = b.drpReady := rfl
@[simp] theorem put_rebootCtrl_drpBusy : (RegRef.rebootCtrl.put cfg d b).drpBusy = b.drpBusy := rfl
@[simp] theorem put_rebootCtrl_ev : (RegRef.rebootCtrl.put cfg d b).ev = b.ev := rfl
@[simp] theorem put_rebootCtrl_sync : (RegRef.rebootCtrl.put cfg d b).sync = b.sync := rfl
@[simp] theorem put_rebootAddr_power : (RegRef.rebootAddr.put cfg d b).power = b.power := rfl
@[simp] theorem put_rebootAddr_rebootCtrl : (RegRef.rebootAddr.put cfg d b).rebootCtrl = b.rebootCtrl := rfl
@[simp] theorem put_rebootAddr_rebootAddr : (RegRef.rebootAddr.put cfg d b).rebootAddr = d := rfl
@[simp] theorem put_rebootAddr_drpAdr : (RegRef.rebootAddr.put cfg d b).drpAdr = b.drpAdr := rfl
@[simp] theorem put_rebootAddr_drpDatW : (RegRef.rebootAddr.put cfg d b).drpDatW = b.drpDatW := rfl
@[simp] theorem put_rebootAddr_drpDatR : (RegRef.rebootAddr.put cfg d b).drpDatR = b.drpDatR := rfl
@[simp] theorem put_rebootAddr_drpReady : (RegRef.rebootAddr.put cfg d b).drpReady = b.drpReady := rfl
@[simp] theorem put_rebootAddr_drpBusy : (RegRef.rebootAddr.put cfg d b).drpBusy = b.drpBusy := rfl
@[simp] theorem put_rebootAddr_ev : (RegRef.rebootAddr.put cfg d b).ev = b.ev := rfl
@[simp] theorem put_rebootAddr_sync : (RegRef.rebootAddr.put cfg d b).sync = b.sync := rfl
@[simp] theorem put_drpAdr_power : (RegRef.drpAdr.put cfg d b).power = b.power := rfl
@[simp] theorem put_drpAdr_rebootCtrl : (RegRef.drpAdr.put cfg d b).rebootCtrl = b.rebootCtrl := rfl
@[simp] theorem put_drpAdr_rebootAddr : (RegRef.drpAdr.put cfg d b).rebootAddr = b.rebootAddr := rfl
@[simp] theorem put_drpAdr_drpAdr : (RegRef.drpAdr.put cfg d b).drpAdr = d.extractLsb' 0 7 := rfl
@[simp] theorem put_drpAdr_drpDatW : (RegRef.drpAdr.put cfg d b).drpDatW = b.drpDatW := rfl
@[simp] theorem put_drpAdr_drpDatR : (RegRef.drpAdr.put cfg d b).drpDatR = b.drpDatR := rfl
@[simp] theorem put_drpAdr_drpReady : (RegRef.drpAdr.put cfg d b).drpReady = b.drpReady := rfl
@[simp] theorem put_drpAdr_drpBusy : (RegRef.drpAdr.put cfg d b).drpBusy = b.drpBusy := rfl
@[simp] theorem put_drpAdr_ev : (RegRef.drpAdr.put cfg d b).ev = b.ev := rfl
@[simp] theorem put_drpAdr_sync : (RegRef.drpAdr.put cfg d b).sync = b.sync := rfl
@[simp] theorem put_drpDatW_power : (RegRef.drpDatW.put cfg d b).power = b.power := rfl
@[simp] theorem put_drpDatW_rebootCtrl : (RegRef.drpDatW.put cfg d b).rebootCtrl = b.rebootCtrl := rfl
@[simp] theorem put_drpDatW_rebootAddr : (RegRef.drpDatW.put cfg d b).rebootAddr = b.rebootAddr := rfl
@[simp] theorem put_drpDatW_drpAdr : (RegRef.drpDatW.put cfg d b).drpAdr = b.drpAdr := rfl
@[simp] theorem put_drpDatW_drpDatW : (RegRef.drpDatW.put cfg d b).drpDatW = d.extractLsb' 0 16 := rfl
@[simp] theorem put_drpDatW_drpDatR : (RegRef.drpDatW.put cfg d b).drpDatR = b.drpDatR := rfl
@[simp] theorem put_drpDatW_drpReady : (RegRef.drpDatW.put cfg d b).drpReady = b.drpReady := rfl
@[simp] theorem put_drpDatW_drpBusy : (RegRef.drpDatW.put cfg d b).drpBusy = b.drpBusy := rfl
@[simp] theorem put_drpDatW_ev : (RegRef.drpDatW.put cfg d b).ev = b.ev := rfl
@[simp] theorem put_drpDatW_sync : (RegRef.drpDatW.put cfg d b).sync = b.sync := rfl
@[simp] theorem put_evEnable_power : ((RegRef.evEnable k).put cfg d b).power = b.power := rfl
@[simp] theorem put_evEnable_rebootCtrl : ((RegRef.evEnable k).put cfg d b).rebootCtrl = b.rebootCtrl := rfl
@[simp] theorem put_evEnable_rebootAddr : ((RegRef.evEnable k).put cfg d b).rebootAddr = b.rebootAddr := rfl
@[simp] theorem put_evEnable_drpAdr : ((RegRef.evEnable k).put cfg d b).drpAdr = b.drpAdr := rfl
@[simp] theorem put_evEnable_drpDatW : ((RegRef.evEnable k).put cfg d b).drpDatW = b.drpDatW := rfl
@[simp] theorem put_evEnable_drpDatR : ((RegRef.evEnable k).put cfg d b).drpDatR = b.drpDatR := rfl
@[simp] theorem put_evEnable_drpReady : ((RegRef.evEnable k).put cfg d b).drpReady = b.drpReady := rfl
@[simp] theorem put_evEnable_drpBusy : ((RegRef.evEnable k).put cfg d b).drpBusy = b.drpBusy := rfl
@[simp] theorem put_evEnable_ev : ((RegRef.evEnable k).put cfg d b).ev =
    b.ev.modify k.toNat fun m => { m with enable := d &&& sourceMask (cfg.sources k.toNat) } := rfl
@[simp] theorem put_evEnable_sync : ((RegRef.evEnable k).put cfg d b).sync = b.sync := rfl
@[simp] theorem put_evPolarity_power : ((RegRef.evPolarity k).put cfg d b).power = b.power := rfl
@[simp] theorem put_evPolarity_rebootCtrl : ((RegRef.evPolarity k).put cfg d b).rebootCtrl = b.rebootCtrl := rfl
@[simp] theorem put_evPolarity_rebootAddr : ((RegRef.evPolarity k).put cfg d b).rebootAddr = b.rebootAddr := rfl
@[simp] theorem put_evPolarity_drpAdr : ((RegRef.evPolarity k).put cfg d b).drpAdr = b.drpAdr := rfl
@[simp] theorem put_evPolarity_drpDatW : ((RegRef.evPolarity k).put cfg d b).drpDatW = b.drpDatW := rfl
@[simp] theorem put_evPolarity_drpDatR : ((RegRef.evPolarity k).put cfg d b).drpDatR = b.drpDatR := rfl
@[simp] theorem put_evPolarity_drpReady : ((RegRef.evPolarity k).put cfg d b).drpReady = b.drpReady := rfl
@[simp] theorem put_evPolarity_drpBusy : ((RegRef.evPolarity k).put cfg d b).drpBusy = b.drpBusy := rfl
@[simp] theorem put_evPolarity_ev : ((RegRef.evPolarity k).put cfg d b).ev =
    b.ev.modify k.toNat fun m => { m with polarity := d &&& polarityMask (cfg.sources k.toNat) } := rfl
@[simp] theorem put_evPolarity_sync : ((RegRef.evPolarity k).put cfg d b).sync = b.sync := rfl

@[simp] theorem put_drpDatR : (RegRef.drpDatR).put cfg d b = b := rfl
@[simp] theorem put_drpReady : (RegRef.drpReady).put cfg d b = b := rfl
@[simp] theorem put_drpRead : (RegRef.drpRead).put cfg d b = b := rfl
@[simp] theorem put_drpWrite : (RegRef.drpWrite).put cfg d b = b := rfl
@[simp] theorem put_evPending : (RegRef.evPending k).put cfg d b = b := rfl

@[simp] theorem strobe_none : b.strobe .none = b := rfl
@[simp] theorem strobe_read_power : (b.strobe .read).power = b.power := rfl
@[simp] theorem strobe_read_rebootCtrl : (b.strobe .read).rebootCtrl = b.rebootCtrl := rfl
@[simp] theorem strobe_read_rebootAddr : (b.strobe .read).rebootAddr = b.rebootAddr := rfl
@[simp] theorem strobe_read_drpAdr : (b.strobe .read).drpAdr = b.drpAdr := rfl
@[simp] theorem strobe_read_drpDatW : (b.strobe .read).drpDatW = b.drpDatW := rfl
@[simp] theorem strobe_read_drpDatR : (b.strobe .read).drpDatR = b.drpDatR := rfl
@[simp] theorem strobe_read_drpReady : (b.strobe .read).drpReady = false := rfl
@[simp] theorem strobe_read_drpBusy : (b.strobe .read).drpBusy = .rd := rfl
@[simp] theorem strobe_read_ev : (b.strobe .read).ev = b.ev := rfl
@[simp] theorem strobe_read_sync : (b.strobe .read).sync = b.sync := rfl
@[simp] theorem strobe_write_power : (b.strobe .write).power = b.power := rfl
@[simp] theorem strobe_write_rebootCtrl : (b.strobe .write).rebootCtrl = b.rebootCtrl := rfl
@[simp] theorem strobe_write_rebootAddr : (b.strobe .write).rebootAddr = b.rebootAddr := rfl
@[simp] theorem strobe_write_drpAdr : (b.strobe .write).drpAdr = b.drpAdr := rfl
@[simp] theorem strobe_write_drpDatW : (b.strobe .write).drpDatW = b.drpDatW := rfl
@[simp] theorem strobe_write_drpDatR : (b.strobe .write).drpDatR = b.drpDatR := rfl
@[simp] theorem strobe_write_drpReady : (b.strobe .write).drpReady = false := rfl
@[simp] theorem strobe_write_drpBusy : (b.strobe .write).drpBusy = .wr := rfl
@[simp] theorem strobe_write_ev : (b.strobe .write).ev = b.ev := rfl
@[simp] theorem strobe_write_sync : (b.strobe .write).sync = b.sync := rfl

@[simp] theorem hardware_power : (b.hardware cfg inp a).power = (b.complete inp).power := rfl
@[simp] theorem hardware_rebootCtrl : (b.hardware cfg inp a).rebootCtrl = (b.complete inp).rebootCtrl := rfl
@[simp] theorem hardware_rebootAddr : (b.hardware cfg inp a).rebootAddr = (b.complete inp).rebootAddr := rfl
@[simp] theorem hardware_drpAdr : (b.hardware cfg inp a).drpAdr = (b.complete inp).drpAdr := rfl
@[simp] theorem hardware_drpDatW : (b.hardware cfg inp a).drpDatW = (b.complete inp).drpDatW := rfl
@[simp] theorem hardware_drpDatR : (b.hardware cfg inp a).drpDatR = (b.complete inp).drpDatR := rfl
@[simp] theorem hardware_drpReady : (b.hardware cfg inp a).drpReady = (b.complete inp).drpReady := rfl
@[simp] theorem hardware_drpBusy : (b.hardware cfg inp a).drpBusy = (b.complete inp).drpBusy := rfl
@[simp] theorem hardware_ev : (b.hardware cfg inp a).ev = b.evNext cfg inp a := rfl
@[simp] theorem hardware_sync : (b.hardware cfg inp a).sync = b.syncNext cfg inp := rfl

@[simp] theorem complete_power : (b.complete inp).power = b.power := by
  unfold Block.complete; split <;> rfl
@[simp] theorem complete_rebootCtrl : (b.complete inp).rebootCtrl = b.rebootCtrl := by
  unfold Block.complete; split <;> rfl
@[simp] theorem complete_rebootAddr : (b.complete inp).rebootAddr = b.rebootAddr := by
  unfold Block.complete; split <;> rfl
@[simp] theorem complete_drpAdr : (b.complete inp).drpAdr = b.drpAdr := by
  unfold Block.complete; split <;> rfl
@[simp] theorem complete_drpDatW : (b.complete inp).drpDatW = b.drpDatW := by
  unfold Block.complete; split <;> rfl
@[simp] theorem complete_ev : (b.complete inp).ev = b.ev := by
  unfold Block.complete; split <;> rfl
@[simp] theorem complete_sync : (b.complete inp).sync = b.sync := by
  unfold Block.complete; split <;> rfl

@[simp] theorem busCycle_cfg : (busCycle a s).cfg = s.cfg := rfl
@[simp] theorem busCycle_blk : (busCycle a s).blk = s.blk.next s.cfg s.input a := rfl
@[simp] theorem busCycle_cycle : (busCycle a s).cycle = s.cycle + 1 := rfl
@[simp] theorem busCycle_inputs : (busCycle a s).inputs = s.inputs.tail := rfl
@[simp] theorem busCycle_out : (busCycle a s).out = s.blk.outputs s.cfg false a.strobe (a.rdata.getD s.input.draws.rdata) s.out.cpuReset := rfl
@[simp] theorem resetCycle_cfg : (resetCycle s).cfg = s.cfg := rfl
@[simp] theorem resetCycle_blk : (resetCycle s).blk = Block.reset s.cfg := rfl
@[simp] theorem resetCycle_cycle : (resetCycle s).cycle = s.cycle + 1 := rfl
@[simp] theorem resetCycle_inputs : (resetCycle s).inputs = s.inputs.tail := rfl
@[simp] theorem resetCycle_out : (resetCycle s).out = (Block.reset s.cfg).outputs s.cfg true .none s.input.draws.rdata s.out.cpuReset := rfl
@[simp] theorem idleCycle_cfg : (idleCycle s).cfg = s.cfg := rfl
@[simp] theorem idleCycle_blk : (idleCycle s).blk = s.blk.next s.cfg s.input {} := rfl
@[simp] theorem idleCycle_cycle : (idleCycle s).cycle = s.cycle + 1 := rfl
@[simp] theorem idleCycle_inputs : (idleCycle s).inputs = s.inputs.tail := rfl

@[simp] theorem outputs_drpEn (rst : Bool) (st : Strobe) (v : Word) (held : Bool) :
    (b.outputs cfg rst st v held).drpEn = (st != .none) := rfl
@[simp] theorem outputs_drpWe (rst : Bool) (st : Strobe) (v : Word) (held : Bool) :
    (b.outputs cfg rst st v held).drpWe = (st == .write) := rfl
@[simp] theorem outputs_drpAddr (rst : Bool) (st : Strobe) (v : Word) (held : Bool) :
    (b.outputs cfg rst st v held).drpAddr = (b.drpAdr) := rfl
@[simp] theorem outputs_drpDi (rst : Bool) (st : Strobe) (v : Word) (held : Bool) :
    (b.outputs cfg rst st v held).drpDi = (b.drpDatW) := rfl
@[simp] theorem outputs_rdata (rst : Bool) (st : Strobe) (v : Word) (held : Bool) :
    (b.outputs cfg rst st v held).rdata = (v) := rfl
@[simp] theorem outputs_audioOn (rst : Bool) (st : Strobe) (v : Word) (held : Bool) :
    (b.outputs cfg rst st v held).audioOn = (b.power.getLsbD 0) := rfl
@[simp] theorem outputs_sysOn (rst : Bool) (st : Strobe) (v : Word) (held : Bool) :
    (b.outputs cfg rst st v held).sysOn = (b.power.getLsbD 1) := rfl
@[simp] theorem outputs_snoopAllowN (rst : Bool) (st : Strobe) (v : Word) (held : Bool) :
    (b.outputs cfg rst st v held).snoopAllowN = (!b.power.getLsbD 2) := rfl
@[simp] theorem outputs_memS0 (rst : Bool) (st : Strobe) (v : Word) (held : Bool) :
    (b.outputs cfg rst st v held).memS0 = (Machine.memS0 b.power rst) := rfl
@[simp] theorem outputs_memS1 (rst : Bool) (st : Strobe) (v : Word) (held : Bool) :
    (b.outputs cfg rst st v held).memS1 = (b.power.getLsbD 4) := rfl
@[simp] theorem outputs_noisebiasOn (rst : Bool) (st : Strobe) (v : Word) (held : Bool) :
    (b.outputs cfg rst st v held).noisebiasOn = (b.power.getLsbD 5) := rfl
@[simp] theorem outputs_noiseOn (rst : Bool) (st : Strobe) (v : Word) (held : Bool) :
    (b.outputs cfg rst st v held).noiseOn = (b.power.extractLsb' 6 2) := rfl
@[simp] theorem outputs_rebootReq (rst : Bool) (st : Strobe) (v : Word) (held : Bool) :
    (b.outputs cfg rst st v held).rebootReq = (Machine.rebootReq b.rebootCtrl rst) := rfl
@[simp] theorem outputs_resetVector (rst : Bool) (st : Strobe) (v : Word) (held : Bool) :
    (b.outputs cfg rst st v held).resetVector = (b.rebootAddr) := rfl
@[simp] theorem outputs_irq (rst : Bool) (st : Strobe) (v : Word) (held : Bool) :
    (b.outputs cfg rst st v held).irq = (b.irqLines cfg) := rfl
@[simp] theorem outputs_syncOut (rst : Bool) (st : Strobe) (v : Word) (held : Bool) :
    (b.outputs cfg rst st v held).syncOut = (b.syncOuts cfg) := rfl
@[simp] theorem outputs_cpuReset (rst : Bool) (st : Strobe) (v : Word) (held : Bool) :
    (b.outputs cfg rst st v held).cpuReset = (rst || Machine.rebootReq b.rebootCtrl rst) := rfl

@[simp] theorem reset_power : (Block.reset cfg).power = 0x0A#8 := rfl
@[simp] theorem reset_rebootCtrl : (Block.reset cfg).rebootCtrl = 0#8 := rfl
@[simp] theorem reset_rebootAddr : (Block.reset cfg).rebootAddr = cfg.resetVectorDefault := rfl
@[simp] theorem reset_drpAdr : (Block.reset cfg).drpAdr = 0#7 := rfl
@[simp] theorem reset_drpDatW : (Block.reset cfg).drpDatW = 0#16 := rfl
@[simp] theorem reset_drpDatR : (Block.reset cfg).drpDatR = 0#16 := rfl
@[simp] theorem reset_drpReady : (Block.reset cfg).drpReady = true := rfl
@[simp] theorem reset_drpBusy : (Block.reset cfg).drpBusy = .idle := rfl
@[simp] theorem reset_ev : (Block.reset cfg).ev = cfg.evSources.map EvManager.reset := rfl
@[simp] theorem reset_sync : (Block.reset cfg).sync = cfg.syncInit.map (SyncChain.reset cfg.syncStages) := rfl

/-- A manager after a store to the list of managers. -/
theorem managerAt_modify (j i : Nat) (f : EvManager → EvManager) :
    ({ b with ev := b.ev.modify j f }).managerAt i =
      if i = j ∧ i < b.ev.length then f (b.managerAt i) else b.managerAt i := by
  unfold Block.managerAt
  by_cases hi : i < b.ev.length
  · by_cases hij : j = i <;> simp [List.getD_eq_getElem?_getD, hi, hij, eq_comm]
  · simp [List.getD_eq_getElem?_getD, hi]

end Sys2Proof.Machine
end

