-- ==== Sys2Proof/Laws/Flags.lean ====
section
/-! SUPPORT. What one cycle makes of a manager, of a chain and of the clock port's handshake. -/

namespace Sys2Proof.Machine

variable (cfg : Config) (b : Block) (inp : Input) (a : BusAction)

/-- A manager's enable mask and polarity are not the hardware's to change. -/
@[simp] theorem managerNext_enable (clear : Word) (k : Nat) (m : EvManager) :
    (m.next cfg b inp clear k).enable = m.enable := rfl

@[simp] theorem managerNext_polarity (clear : Word) (k : Nat) (m : EvManager) :
    (m.next cfg b inp clear k).polarity = m.polarity := rfl

/-- A pending bit after a cycle (41_event_manager R127). -/
theorem managerNext_pending (clear : Word) (k i : Nat) (m : EvManager) (src : Source) (hi : i < 32)
    (h : (cfg.sources k)[i]? = some src) :
    (m.next cfg b inp clear k).pending.getLsbD i =
      (sourceEvent cfg b inp k i m src || (m.pending.getLsbD i && !clear.getLsbD i)) := by
  rw [EvManager.next, packSources_getLsbD_of _ _ _ _ hi h, pendingNext]

/-- An edge-history bit after a cycle (41_event_manager R126). -/
theorem managerNext_prev (clear : Word) (k i : Nat) (m : EvManager) (src : Source) (hi : i < 32)
    (h : (cfg.sources k)[i]? = some src) :
    (m.next cfg b inp clear k).prev.getLsbD i = sourceInput cfg b inp k i m src := by
  rw [EvManager.next, packSources_getLsbD_of _ _ _ _ hi h]

/-- The list of managers after the hardware's part of a cycle. -/
theorem evNext_getElem? (k : Nat) :
    (b.evNext cfg inp a)[k]? = (b.ev[k]?).map fun m => m.next cfg b inp (a.clearOf k) k := by
  simp [Block.evNext]

@[simp] theorem evNext_length : (b.evNext cfg inp a).length = b.ev.length := by
  simp [Block.evNext]

/-- A manager of the block after the hardware's part of a cycle. -/
theorem hardware_managerAt (k : Nat) (hk : k < b.ev.length) :
    (b.hardware cfg inp a).managerAt k = (b.managerAt k).next cfg b inp (a.clearOf k) k := by
  simp only [Block.managerAt, List.getD_eq_getElem?_getD, hardware_ev, evNext_getElem?]
  simp [hk]

/-- The chains after a cycle. -/
theorem syncNext_getElem? (c : Nat) :
    (b.syncNext cfg inp)[c]? =
      (b.sync[c]?).map fun ch => ch.next cfg.syncStages (inp.raw.getD c false) (inp.draws.stage0.getD c false) := by
  simp [Block.syncNext]

/-- Stage 0 takes the draw between the new and the previous raw value (42_synchronizer R152). -/
theorem sampleRaw_eq (takesNew now last : Bool) :
    sampleRaw takesNew now last = if takesNew then now else last := by
  cases takesNew <;> cases now <;> cases last <;> rfl

/-- A chain of `n` stages keeps its length. -/
theorem chainNext_length (n : Nat) (now takesNew : Bool) (ch : SyncChain) (h : ch.stages.length = n) :
    (ch.next n now takesNew).stages.length = n := by
  simp [SyncChain.next, h]

/-- The other stages of a chain shift (42_synchronizer R152). -/
theorem chainNext_shift (n j : Nat) (now takesNew : Bool) (ch : SyncChain) (hj : j + 1 < n) :
    (ch.next n now takesNew).stages[j + 1]? = ch.stages[j]? := by
  simp [SyncChain.next, hj]

/-- Stage 0 of a chain (42_synchronizer R152). -/
theorem chainNext_zero (n : Nat) (now takesNew : Bool) (ch : SyncChain) (hn : 0 < n) :
    (ch.next n now takesNew).stages[0]? = some (sampleRaw takesNew now ch.aLast) := by
  simp [SyncChain.next, hn]

/-- The clock port without an outstanding request ignores `drp_rdy` (45_clock_port R214). -/
theorem complete_idle (h : b.drpBusy = .idle) : b.complete inp = b := by
  unfold Block.complete; rw [h]

/-- The clock port without an answer waits (45_clock_port R214). -/
theorem complete_waiting (h : inp.drpRdy = false) : b.complete inp = b := by
  unfold Block.complete; rw [h]; cases b.drpBusy <;> rfl

/-- The completion of a read request (45_clock_port R214). -/
theorem complete_read (h : b.drpBusy = .rd) (hr : inp.drpRdy = true) :
    b.complete inp = { b with drpDatR := inp.drpDo, drpBusy := .idle, drpReady := true } := by
  unfold Block.complete; rw [h, hr]

/-- The completion of a write request (45_clock_port R214). -/
theorem complete_write (h : b.drpBusy = .wr) (hr : inp.drpRdy = true) :
    b.complete inp = { b with drpBusy := .idle, drpReady := true } := by
  unfold Block.complete; rw [h, hr]

end Sys2Proof.Machine
end

