-- ==== Sys2Proof/Laws/Ops.lean ====
section
/-! SUPPORT. What a transaction and a step can do, said once: the bus action of each transaction, the cases of
`exec` and of `step`, and the cases of the next record. -/

namespace Sys2Proof.Machine

/-- The bus action of a transaction in a state. -/
def actionOf (s : State) : Instr → BusAction
  | .rdPower => { rdata := some (RegRef.power.get s.cfg s.blk) }
  | .wrPower d => { store := some (.power, d) }
  | .rdRebootCtrl => { rdata := some (RegRef.rebootCtrl.get s.cfg s.blk) }
  | .wrRebootCtrl d => { store := some (.rebootCtrl, d) }
  | .rdRebootAddr => { rdata := some (RegRef.rebootAddr.get s.cfg s.blk) }
  | .wrRebootAddr d => { store := some (.rebootAddr, d) }
  | .rdDrpAdr => { rdata := some (RegRef.drpAdr.get s.cfg s.blk) }
  | .wrDrpAdr d => { store := some (.drpAdr, d) }
  | .rdDrpDatW => { rdata := some (RegRef.drpDatW.get s.cfg s.blk) }
  | .wrDrpDatW d => { store := some (.drpDatW, d) }
  | .rdDrpDatR => { rdata := some (RegRef.drpDatR.get s.cfg s.blk) }
  | .wrDrpDatR _ => {}
  | .rdDrpReady => { rdata := some (RegRef.drpReady.get s.cfg s.blk) }
  | .wrDrpReady _ => {}
  | .rdDrpRead => { rdata := some (RegRef.drpRead.get s.cfg s.blk) }
  | .wrDrpRead _ => { strobe := .read }
  | .rdDrpWrite => { rdata := some (RegRef.drpWrite.get s.cfg s.blk) }
  | .wrDrpWrite _ => { strobe := .write }
  | .rdEvPending k => { rdata := some ((RegRef.evPending k).get s.cfg s.blk) }
  | .wrEvPending k d => { clear := some (k, d) }
  | .rdEvEnable k => { rdata := some ((RegRef.evEnable k).get s.cfg s.blk) }
  | .wrEvEnable k d => { store := some (.evEnable k, d) }
  | .rdEvPolarity k => { rdata := some ((RegRef.evPolarity k).get s.cfg s.blk) }
  | .wrEvPolarity k d => { store := some (.evPolarity k, d) }

/-- A transaction waits for nobody: it overlaps exactly when it strobes a busy clock port (45_clock_port R215). -/
def overlaps (s : State) (i : Instr) : Bool := (actionOf s i).strobe != .none && s.blk.drpBusy != .idle

/-- Everything a transaction can do. -/
theorem exec_eq (i : Instr) (s : State) :
    exec i s = if s.inReset then .next (resetCycle s)
      else if overlaps s i then .fault (.drpOverlap (encode i) s.blk.drpBusy)
      else if i.wellFormed s.cfg then .next (busCycle (actionOf s i) s)
      else .fault (.unmapped (encode i)) := by
  cases hr : s.inReset <;> cases hb : s.blk.drpBusy <;> cases i <;>
    simp [exec, execRdPower, execWrPower, execRdRebootCtrl, execWrRebootCtrl, execRdRebootAddr, execWrRebootAddr,
      execRdDrpAdr, execWrDrpAdr, execRdDrpDatW, execWrDrpDatW, execRdDrpDatR, execWrDrpDatR, execRdDrpReady,
      execWrDrpReady, execRdDrpRead, execWrDrpRead, execRdDrpWrite, execWrDrpWrite, execRdEvPending,
      execWrEvPending, execRdEvEnable, execWrEvEnable, execRdEvPolarity, execWrEvPolarity, busRead, busWrite,
      busWriteIgnored, busClear, busStrobe, transact, actionOf, overlaps, hr, hb, Instr.wellFormed]

/-- A transaction that answers a next state outside a reset cycle ran its bus cycle. -/
theorem exec_next {i : Instr} {s t : State} (hr : s.inReset = false) (h : exec i s = .next t) :
    i.wellFormed s.cfg = true ∧ overlaps s i = false ∧ t = busCycle (actionOf s i) s := by
  rw [exec_eq, if_neg (by simp [hr])] at h
  cases ho : overlaps s i <;> cases hw : i.wellFormed s.cfg <;> simp [ho, hw] at h
  exact ⟨rfl, rfl, h.symm⟩

/-- A transaction of a register the build has, which does not overlap, runs its bus cycle. -/
theorem exec_of_wellFormed {i : Instr} {s : State} (hr : s.inReset = false) (hw : i.wellFormed s.cfg = true)
    (ho : overlaps s i = false) : exec i s = .next (busCycle (actionOf s i) s) := by
  rw [exec_eq]; simp [hr, hw, ho]

/-- Everything a step that answers a next state can have done: a reset cycle, an idle cycle, or the bus cycle of
the transaction its request decodes to. -/
theorem step_cases {s t : State} (h : step s = .next t) :
    (s.inReset = true ∧ t = resetCycle s) ∨
    (s.inReset = false ∧ decode s.cfg s.input.req = .idle ∧ t = idleCycle s) ∨
    ∃ i, s.inReset = false ∧ decode s.cfg s.input.req = .transaction i ∧ i.wellFormed s.cfg = true ∧
      overlaps s i = false ∧ t = busCycle (actionOf s i) s := by
  unfold step at h
  cases hr : s.inReset
  · rw [if_neg (by simp [hr])] at h
    cases hd : decode s.cfg s.input.req with
    | idle => rw [hd] at h; exact .inr (.inl ⟨rfl, rfl, by simpa using h.symm⟩)
    | transaction i => rw [hd] at h; exact .inr (.inr ⟨i, rfl, rfl, exec_next hr h⟩)
    | rejected why => rw [hd] at h; cases h
  · rw [if_pos hr] at h
    exact .inl ⟨rfl, by simpa using h.symm⟩

/-- The action of the coming non-reset cycle that answers a next state, whatever its request. -/
theorem step_busCycle {s t : State} (hr : s.inReset = false) (h : step s = .next t) :
    ∃ a, t = busCycle a s := by
  rcases step_cases h with ⟨hr', _⟩ | ⟨_, _, rfl⟩ | ⟨i, _, _, _, _, rfl⟩
  · rw [hr] at hr'; cases hr'
  · exact ⟨{}, rfl⟩
  · exact ⟨_, rfl⟩

/-- Where the coming cycle's updates stand, the next record is the hardware's with the bus action's fields. -/
theorem next_of_keepsUpdates {s : State} (h : s.KeepsUpdates) (inp : Input) (a : BusAction) :
    s.blk.next s.cfg inp a = ((s.blk.hardware s.cfg inp a).strobe a.strobe).store s.cfg a := by
  unfold Block.next Block.warmReset
  cases hb : auth s.blk.rebootCtrl
  · simp
  · simp [h hb]

/-- A run of one more cycle, of any machine of the host's form. -/
theorem coreRun_succ (M : Host.Core) (n : Nat) (s t : M.State) :
    M.run (n + 1) s = .next t ↔ ∃ u, M.step s = .next u ∧ M.run n u = .next t := by
  conv_lhs => unfold Host.Core.run
  cases h : M.step s <;> simp

/-- A run of one more cycle. -/
theorem run_succ {n : Nat} {s t : State} :
    core.run (n + 1) s = .next t ↔ ∃ u, step s = .next u ∧ core.run n u = .next t :=
  coreRun_succ core n s t

end Sys2Proof.Machine
end

