-- ==== Sys2Proof/Laws/Frames.lean ====
section
/-! SUPPORT. What the parts of a cycle leave unchanged, register by register. -/

namespace Sys2Proof.Machine
variable {cfg : Config} {b : Block} {inp : Input} {a : BusAction}

/-- A manager's stored registers are not changed by the hardware's part of a cycle. -/
theorem hardware_managerAt_stores (k : Nat) :
    ((b.hardware cfg inp a).managerAt k).enable = (b.managerAt k).enable ∧
      ((b.hardware cfg inp a).managerAt k).polarity = (b.managerAt k).polarity := by
  by_cases hk : k < b.ev.length
  · rw [hardware_managerAt _ _ _ _ _ hk]; exact ⟨rfl, rfl⟩
  · simp [Block.managerAt, hk]

/-- A strobe leaves the managers. -/
@[simp] theorem strobe_managerAt (st : Strobe) (k : Nat) : (b.strobe st).managerAt k = b.managerAt k := by
  cases st <;> rfl

/-- A manager after a store. -/
theorem put_managerAt (r : RegRef) (d : Word) (j : Nat) :
    (r.put cfg d b).managerAt j =
      match r with
      | .evEnable k => if j = k.toNat ∧ j < b.ev.length
          then { b.managerAt j with enable := d &&& sourceMask (cfg.sources k.toNat) } else b.managerAt j
      | .evPolarity k => if j = k.toNat ∧ j < b.ev.length
          then { b.managerAt j with polarity := d &&& polarityMask (cfg.sources k.toNat) } else b.managerAt j
      | _ => b.managerAt j := by
  cases r <;> first | rfl | exact managerAt_modify b _ _ _

/-- A store leaves pending bits and edge history. -/
theorem put_managerAt_status (r : RegRef) (d : Word) (j : Nat) :
    ((r.put cfg d b).managerAt j).pending = (b.managerAt j).pending ∧
      ((r.put cfg d b).managerAt j).prev = (b.managerAt j).prev := by
  rw [put_managerAt]; split <;> (try split) <;> exact ⟨rfl, rfl⟩

/-- A read-write register through the hardware's part of a cycle. -/
theorem hardware_get (r : RegRef) (hr : r.mode = .rw) : r.get cfg (b.hardware cfg inp a) = r.get cfg b := by
  have h := fun k => hardware_managerAt_stores (cfg := cfg) (b := b) (inp := inp) (a := a) k
  cases r <;> simp_all [RegRef.get, RegRef.mode]

/-- A read-write register through a strobe. -/
theorem strobe_get (st : Strobe) (r : RegRef) (hr : r.mode = .rw) : r.get cfg (b.strobe st) = r.get cfg b := by
  cases st <;> cases r <;> simp_all [RegRef.get, RegRef.mode]

/-- A register through a store to another one. -/
theorem put_get_of_ne (r r' : RegRef) (d : Word) (h : r ≠ r') : r.get cfg (r'.put cfg d b) = r.get cfg b := by
  cases r with
  | evPending k => simp only [RegRef.get, put_managerAt_status]
  | evEnable k =>
    simp only [RegRef.get, put_managerAt]
    split
    · rename_i k'
      rw [if_neg (fun hh => h (congrArg _ (BitVec.eq_of_toNat_eq hh.1)))]
    · split <;> rfl
    · rfl
  | evPolarity k =>
    simp only [RegRef.get, put_managerAt]
    split
    · split <;> rfl
    · rename_i k'
      rw [if_neg (fun hh => h (congrArg _ (BitVec.eq_of_toNat_eq hh.1)))]
    · rfl
  | _ => cases r' <;> simp_all [RegRef.get]

/-- A register after its own store (30_encoding R74): `d & WMASK`. -/
theorem put_get_self (r : RegRef) (d : Word) (hr : r.mode = .rw)
    (hk : ∀ k, r = .evEnable k ∨ r = .evPolarity k → k.toNat < b.ev.length) :
    r.get cfg (r.put cfg d b) = d &&& r.writeMask cfg := by
  cases r with
  | evEnable k =>
    simp only [RegRef.get, put_managerAt, RegRef.writeMask]
    rw [if_pos ⟨trivial, hk k (.inl rfl)⟩]; simp [BitVec.and_assoc]
  | evPolarity k =>
    simp only [RegRef.get, put_managerAt, RegRef.writeMask]
    rw [if_pos ⟨trivial, hk k (.inr rfl)⟩]; simp [BitVec.and_assoc]
  | power | rebootCtrl | rebootAddr | drpAdr | drpDatW =>
    simp only [RegRef.get, RegRef.put, RegRef.writeMask]
    apply BitVec.eq_of_getLsbD_eq
    intro i hi
    interval_cases i <;> simp
  | _ => simp [RegRef.mode] at hr

/-- A bus action without a store stores nothing. -/
theorem store_none (h : a.store = none) : b.store cfg a = b := by
  unfold Block.store; rw [h]

/-- A bus action with a store performs it. -/
theorem store_some {r : RegRef} {d : Word} (h : a.store = some (r, d)) : b.store cfg a = r.put cfg d b := by
  unfold Block.store; rw [h]

end Sys2Proof.Machine
end

