-- ==== Sys2Proof/Laws/Cycle.lean ====
section
/-! SUPPORT. The state after a cycle, part by part, in the words the statements use: steps by what they decode,
the record where updates stand, managers, chains, lines, and runs over listed inputs. -/

namespace Sys2Proof.Machine

-- Steps by their request.

theorem step_of_inReset {s : State} (h : s.inReset = true) : step s = .next (resetCycle s) := by
  unfold step; rw [if_pos h]

theorem step_of_rejected {s : State} (hr : s.inReset = false) {why : DecodeFault}
    (h : decode s.cfg s.input.req = .rejected why) : step s = .fault (decodeFault s.input.req why) := by
  unfold step; rw [if_neg (by simp [hr]), h]

theorem step_of_transaction {s : State} (hr : s.inReset = false) {i : Instr}
    (h : decode s.cfg s.input.req = .transaction i) : step s = exec i s := by
  unfold step; rw [if_neg (by simp [hr]), h]

theorem step_of_idle {s : State} (hr : s.inReset = false) (h : s.input.req = .idle) :
    step s = .next (idleCycle s) := by
  unfold step; rw [if_neg (by simp [hr]), h]; rfl

/-- Only the idle request decodes to the idle cycle. -/
theorem decode_eq_idle {cfg : Config} {q : Request} : decode cfg q = .idle ↔ q = .idle := by
  constructor
  · intro h
    cases q with
    | idle => rfl
    | read a n => revert h; simp only [decode, decodeAccess]; repeat' split
                  all_goals simp
    | write a n d => revert h; simp only [decode, decodeAccess]; repeat' split
                     all_goals simp
  · rintro rfl; rfl

/-- A read answers the state of a read cycle. -/
theorem exec_of_read {s : State} {i : Instr} {v : Word} (hr : s.inReset = false)
    (hw : i.wellFormed s.cfg = true) (ha : actionOf s i = { rdata := some v }) :
    exec i s = .next (readCycle s v) := by
  rw [exec_of_wellFormed hr hw (by simp [overlaps, ha]), ha]; rfl

/-- A transaction that strobes nothing overlaps nothing. -/
theorem exec_of_noStrobe {s : State} {i : Instr} (hr : s.inReset = false) (hw : i.wellFormed s.cfg = true)
    (hs : (actionOf s i).strobe = .none) : exec i s = .next (busCycle (actionOf s i) s) :=
  exec_of_wellFormed hr hw (by simp [overlaps, hs])

-- Transactions and registers.

theorem writeInstr_action (s : State) (r : RegRef) (d : Word) (hr : r.mode = .rw) :
    actionOf s (r.writeInstr d) = { store := some (r, d) } := by
  cases r <;> first | rfl | exact absurd hr (by simp [RegRef.mode])

theorem readInstr_action (s : State) (r : RegRef) :
    actionOf s r.readInstr = { rdata := some (r.get s.cfg s.blk) } := by
  cases r <;> rfl

theorem readInstr_wellFormed (cfg : Config) (r : RegRef) (d : Word) :
    (r.writeInstr d).wellFormed cfg = r.readInstr.wellFormed cfg := by
  cases r <;> rfl

/-- A store is the write of its register. -/
theorem store_of_action {s : State} {i : Instr} {r : RegRef} {d : Word}
    (h : (actionOf s i).store = some (r, d)) : i = r.writeInstr d ∧ r.mode = .rw := by
  cases i <;> simp_all [actionOf] <;> obtain ⟨rfl, rfl⟩ := h <;> exact ⟨rfl, rfl⟩

/-- Only the two strobe writes strobe. -/
theorem strobe_of_action {s : State} {i : Instr} (h : (actionOf s i).strobe ≠ .none) :
    (∃ d, i = .wrDrpRead d ∧ (actionOf s i).strobe = .read) ∨
      ∃ d, i = .wrDrpWrite d ∧ (actionOf s i).strobe = .write := by
  cases i <;> simp_all [actionOf]

-- What a store and a strobe leave.

theorem store_handshake (cfg : Config) (a : BusAction) (b : Block) :
    (b.store cfg a).drpReady = b.drpReady ∧ (b.store cfg a).drpBusy = b.drpBusy ∧
      (b.store cfg a).drpDatR = b.drpDatR := by
  unfold Block.store; split
  · rename_i r d _; cases r <;> exact ⟨rfl, rfl, rfl⟩
  · exact ⟨rfl, rfl, rfl⟩

theorem store_sync (cfg : Config) (a : BusAction) (b : Block) : (b.store cfg a).sync = b.sync := by
  unfold Block.store; split
  · rename_i r d _; cases r <;> rfl
  · rfl

theorem store_managerAt_status (cfg : Config) (a : BusAction) (b : Block) (k : Nat) :
    ((b.store cfg a).managerAt k).pending = (b.managerAt k).pending ∧
      ((b.store cfg a).managerAt k).prev = (b.managerAt k).prev := by
  unfold Block.store; split
  · exact put_managerAt_status _ _ _
  · exact ⟨rfl, rfl⟩

theorem strobe_drpDatR (b : Block) (st : Strobe) : (b.strobe st).drpDatR = b.drpDatR := by cases st <;> rfl

theorem strobe_sync (b : Block) (st : Strobe) : (b.strobe st).sync = b.sync := by cases st <;> rfl

-- The record after a cycle.

/-- Where the cycle's updates stand. -/
theorem busCycle_blk_keeps {s : State} (hk : s.KeepsUpdates) (a : BusAction) :
    (busCycle a s).blk = ((s.blk.hardware s.cfg s.input a).strobe a.strobe).store s.cfg a := by
  rw [busCycle_blk, next_of_keepsUpdates hk]

/-- Where a warm reboot resets REBOOT_CTRL at most. -/
theorem busCycle_blk_cases {s : State} (hs : s.KeepsUpdates ∨ s.SmallScope) (a : BusAction) :
    (busCycle a s).blk = ((s.blk.hardware s.cfg s.input a).strobe a.strobe).store s.cfg a ∨
      (busCycle a s).blk =
        { ((s.blk.hardware s.cfg s.input a).strobe a.strobe).store s.cfg a with rebootCtrl := 0#8 } := by
  rcases hs with hk | hs
  · exact .inl (busCycle_blk_keeps hk a)
  · rw [busCycle_blk]; unfold Block.next Block.warmReset
    split
    · rcases hs with h | h <;> rw [h]
      · exact .inl rfl
      · exact .inr rfl
    · exact .inl rfl

/-- The managers and the chains after such a cycle. -/
theorem busCycle_parts {s : State} (hs : s.KeepsUpdates ∨ s.SmallScope) (a : BusAction) (k : Nat) :
    (busCycle a s).blk.managerAt k =
        (((s.blk.hardware s.cfg s.input a).strobe a.strobe).store s.cfg a).managerAt k ∧
      (busCycle a s).blk.sync = (((s.blk.hardware s.cfg s.input a).strobe a.strobe).store s.cfg a).sync := by
  rcases busCycle_blk_cases hs a with h | h <;> rw [h] <;> exact ⟨rfl, rfl⟩

/-- A manager's pending bits and edge history through strobe and store. -/
theorem updates_managerAt_status {s : State} (hi : s.Inv) {k : Nat} (hk : k < s.cfg.numEv) (a : BusAction) :
    ((((s.blk.hardware s.cfg s.input a).strobe a.strobe).store s.cfg a).managerAt k).pending =
        ((s.blk.managerAt k).next s.cfg s.blk s.input (a.clearOf k) k).pending ∧
      ((((s.blk.hardware s.cfg s.input a).strobe a.strobe).store s.cfg a).managerAt k).prev =
        ((s.blk.managerAt k).next s.cfg s.blk s.input (a.clearOf k) k).prev := by
  rw [(store_managerAt_status _ _ _ _).1, (store_managerAt_status _ _ _ _).2, strobe_managerAt,
    hardware_managerAt _ _ _ _ _ (by rw [hi.2.1]; exact hk)]
  exact ⟨rfl, rfl⟩

-- Sources, lines and outputs.

/-- A manager of a build within its bounds has at most 32 sources. -/
theorem sources_length_le {cfg : Config} (h : cfg.WF) (k : Nat) : (cfg.sources k).length ≤ 32 := by
  unfold Config.sources
  by_cases hk : k < cfg.evSources.length
  · rw [List.getD_eq_getElem?_getD, List.getElem?_eq_getElem hk]
    exact (h.2.2 _ (List.getElem_mem hk)).2.1
  · simp [hk]

theorem source_index_lt {cfg : Config} (h : cfg.WF) {k i : Nat} {src : Source}
    (hs : (cfg.sources k)[i]? = some src) : i < 32 := by
  have h1 := sources_length_le h k
  have h2 : i < (cfg.sources k).length := by
    by_contra hc
    rw [List.getElem?_eq_none (by omega)] at hs; cases hs
  omega

theorem irqLines_getD (cfg : Config) (b : Block) (k : Nat) (hk : k < cfg.numEv) :
    (b.irqLines cfg).getD k false = (b.managerAt k).irq cfg k := by
  simp [Block.irqLines, hk]

theorem syncOuts_getD (cfg : Config) (b : Block) (c : Nat) (hc : c < cfg.numAsync) :
    (b.syncOuts cfg).getD c false = b.syncOut cfg c := by
  simp [Block.syncOuts, hc]

-- Runs over listed inputs.

theorem run_zero {s t : State} : core.run 0 s = .next t ↔ s = t := by
  constructor
  · intro h; cases h; rfl
  · rintro rfl; rfl

/-- The first of `n + 1` non-reset cycles. -/
theorem noResetFor_head {n : Nat} {s : State} (h : NoResetFor (n + 1) s) :
    s.inReset = false ∧ ∃ inp rest, s.inputs = inp :: rest ∧ s.input = inp := by
  obtain ⟨h1, h2⟩ := h
  cases hi : s.inputs with
  | nil => rw [hi] at h1; simp at h1
  | cons inp rest =>
    have e : s.input = inp := by unfold State.input; rw [hi]
    refine ⟨?_, inp, rest, rfl, e⟩
    unfold State.inReset; rw [e]; exact h2 inp (by simp [hi])

/-- The other `n` of them. -/
theorem noResetFor_tail {n : Nat} {s t : State} (h : NoResetFor (n + 1) s) (ht : t.inputs = s.inputs.tail) :
    NoResetFor n t := by
  obtain ⟨_, inp, rest, hi, _⟩ := noResetFor_head h
  obtain ⟨h1, h2⟩ := h
  rw [hi] at h1 h2 ht
  unfold NoResetFor
  rw [ht]
  exact ⟨by simpa using h1, fun x hx => h2 x (by simpa using .inr hx)⟩

-- Runs without a warm reset.

/-- The action of the coming non-reset cycle that answers a next state, with what it clears and stores in terms of
its request. -/
theorem step_action {s t : State} (hr : s.inReset = false) (h : step s = .next t) :
    ∃ a, t = busCycle a s ∧ (∀ k, a.clearOf k = clearData s k) ∧
      ∀ r d, a.store = some (r, d) → decode s.cfg s.input.req = .transaction (r.writeInstr d) := by
  rcases step_cases h with ⟨hr', _⟩ | ⟨_, hd, rfl⟩ | ⟨i, _, hd, _, _, rfl⟩
  · rw [hr] at hr'; cases hr'
  · exact ⟨{}, rfl, by simp [clearData, hd, BusAction.clearOf], by simp⟩
  · refine ⟨_, rfl, fun k => ?_, fun r d hs => ?_⟩
    · unfold clearData; rw [hd]; cases i <;> rfl
    · rw [← (store_of_action hs).1]; exact hd

/-- REBOOT_CTRL stays unauthorized through a cycle whose request authorizes nothing. -/
theorem auth_busCycle {s : State} (ha : auth s.blk.rebootCtrl = false) (hq : authorizes s.cfg s.input = false)
    {a : BusAction}
    (hs : ∀ r d, a.store = some (r, d) → decode s.cfg s.input.req = .transaction (r.writeInstr d)) :
    auth (busCycle a s).blk.rebootCtrl = false := by
  have hb : ((s.blk.hardware s.cfg s.input a).strobe a.strobe).rebootCtrl = s.blk.rebootCtrl := by
    cases a.strobe <;> simp
  rw [busCycle_blk_keeps (by simp [State.KeepsUpdates, ha]) a]
  cases hst : a.store with
  | none => rw [store_none hst, hb]; exact ha
  | some p =>
    obtain ⟨r, d⟩ := p
    rw [store_some hst]
    by_cases hr : r = .rebootCtrl
    · subst hr
      unfold authorizes at hq
      rw [hs _ _ hst] at hq
      exact hq
    · have := put_get_of_ne (cfg := s.cfg) (b := (s.blk.hardware s.cfg s.input a).strobe a.strobe) .rebootCtrl r d
        (Ne.symm hr)
      have e := congrArg (BitVec.setWidth 8) this
      simp only [RegRef.get, BitVec.setWidth_setWidth_of_le _ (by decide : 8 ≤ 32), BitVec.setWidth_eq] at e
      rw [e, hb]; exact ha

/-- The first of `n + 1` cycles without a warm reset. -/
theorem noWarmResetFor_head {n : Nat} {s : State} (h : NoWarmResetFor (n + 1) s) : s.KeepsUpdates ∨ s.SmallScope := by
  rcases h with h | h
  · exact .inr h
  · exact .inl (by simp [State.KeepsUpdates, h.1])

/-- The other `n` of them, where the first is listed and no reset cycle. -/
theorem noWarmResetFor_tail {n : Nat} {s t : State} (hn : NoResetFor (n + 1) s) (h : NoWarmResetFor (n + 1) s)
    (ht : step s = .next t) : NoWarmResetFor n t := by
  obtain ⟨hr, inp, rest, hl, he⟩ := noResetFor_head hn
  obtain ⟨a, rfl, _, hs⟩ := step_action hr ht
  rcases h with h | ⟨ha, hq⟩
  · exact .inl h
  · rw [hl] at hq
    refine .inr ⟨auth_busCycle ha (he ▸ hq inp (by simp)) hs, fun x hx => hq x ?_⟩
    rw [show (busCycle a s).inputs = s.inputs.tail from rfl, hl] at hx
    simpa using .inr hx

end Sys2Proof.Machine
end

