-- ==== Sys2Proof/Laws/Encoding.lean ====
section
/-! SUPPORT. Request words bit by bit: their two parts, and what a row of the opcode table selects. -/

namespace Sys2Proof

/-- The two parts of a request word (30_encoding R71). -/
theorem requestWord_parts (we : Bool) (a : Word) :
    (requestWord we a).extractLsb' 0 32 = a ∧ (requestWord we a).getLsbD 32 = we := by
  unfold requestWord
  constructor
  · apply BitVec.eq_of_getLsbD_eq
    intro i hi
    rw [BitVec.getLsbD_extractLsb', BitVec.getLsbD_append]; simp [hi]
  · rw [BitVec.getLsbD_append]; simp

/-- A request word determines its parts. -/
theorem requestWord_inj (we we' : Bool) (a a' : Word) (h : requestWord we a = requestWord we' a') :
    we = we' ∧ a = a' := by
  have h1 := requestWord_parts we a
  have h2 := requestWord_parts we' a'
  rw [h] at h1
  exact ⟨h1.2.symm.trans h2.2, h1.1.symm.trans h2.1⟩

/-- A fixed-block row selects its one request word. -/
theorem selects_fixed (row : OpcodeRow) (hm : row.mask = fixedMask) (rq : BitVec 33) :
    row.selects rq = true ↔ rq = row.pattern := by
  unfold OpcodeRow.selects
  have h : rq &&& fixedMask = rq := by
    rw [show fixedMask = BitVec.allOnes 33 by decide]; exact BitVec.and_allOnes
  rw [hm, h]; simp

/-- A word under the event-manager mask is the masked word with `k = RQ[14:11]` put back. -/
theorem evMask_rebuild (rq p : BitVec 33) (h : rq &&& evMask = p) :
    rq = p ||| ((rq.extractLsb' 11 4).setWidth 33 <<< 11) := by
  subst h
  ext i hi
  simp only [BitVec.getElem_or, BitVec.getElem_and, BitVec.getElem_shiftLeft]
  have hm : evMask[i] = !(decide (11 ≤ i) && decide (i ≤ 14)) := by
    revert i; decide
  rw [hm]
  by_cases h1 : 11 ≤ i
  · by_cases h2 : i ≤ 14
    · have e : 11 + (i - 11) = i := by omega
      have e2 : i - 11 < 4 := by omega
      have e3 : ¬ i < 11 := by omega
      simp [h1, h2, e, e2, e3, BitVec.getLsbD_eq_getElem hi]
    · have e2 : ¬ i - 11 < 4 := by omega
      simp [h1, h2, e2]
  · have : i < 11 := by omega
    simp [h1, this]

/-- The row a search by position finds. -/
theorem find?_of_findIdx (p : OpcodeRow → Bool) (n : Nat) (row : OpcodeRow) (h : opcodeTable[n]? = some row)
    (h2 : (opcodeTable.map p).findIdx id = n) : opcodeTable.find? p = some row := by
  rw [List.findIdx_map] at h2
  rw [List.find?_eq_getElem?_findIdx]
  simp only [Function.id_comp] at h2
  rw [h2, h]

/-- The offsets of an event manager's registers (20_memory R59). -/
theorem evOffset_eq : ∀ k : BitVec 4,
    evOffset k 0#11 = BitVec.ofNat 32 (0x8000 + 0x800 * k.toNat + 0x0) ∧
      evOffset k 4#11 = BitVec.ofNat 32 (0x8000 + 0x800 * k.toNat + 0x4) ∧
      evOffset k 8#11 = BitVec.ofNat 32 (0x8000 + 0x800 * k.toNat + 0x8) := by decide

end Sys2Proof
end

