-- ==== Sys2Proof/Laws/PerInstr.lean ====
section
/-! SUPPORT. Per-instruction families: what every transaction's request word has in common. -/

namespace Sys2Proof.Laws.Aligned

/-- The `align` and `a_hi` fields of every mapped register's request word are 0 (30_encoding R71). -/
def Statement (i : Instr) : Prop := i.offset.extractLsb' 0 2 = 0#2 ∧ i.offset.extractLsb' 16 16 = 0#16

/-- The registers of an event manager. -/
theorem pending_aligned : ∀ k : BitVec 4, (evOffset k 0x000#11).extractLsb' 0 2 = 0#2 ∧
    (evOffset k 0x000#11).extractLsb' 16 16 = 0#16 := by decide
theorem enable_aligned : ∀ k : BitVec 4, (evOffset k 0x004#11).extractLsb' 0 2 = 0#2 ∧
    (evOffset k 0x004#11).extractLsb' 16 16 = 0#16 := by decide
theorem polarity_aligned : ∀ k : BitVec 4, (evOffset k 0x008#11).extractLsb' 0 2 = 0#2 ∧
    (evOffset k 0x008#11).extractLsb' 16 16 = 0#16 := by decide

theorem rdPower : Statement .rdPower := by unfold Statement; decide
theorem wrPower (d : Word) : Statement (.wrPower d) := by simp only [Statement, Instr.offset]; decide
theorem rdRebootCtrl : Statement .rdRebootCtrl := by unfold Statement; decide
theorem wrRebootCtrl (d : Word) : Statement (.wrRebootCtrl d) := by simp only [Statement, Instr.offset]; decide
theorem rdRebootAddr : Statement .rdRebootAddr := by unfold Statement; decide
theorem wrRebootAddr (d : Word) : Statement (.wrRebootAddr d) := by simp only [Statement, Instr.offset]; decide
theorem rdDrpAdr : Statement .rdDrpAdr := by unfold Statement; decide
theorem wrDrpAdr (d : Word) : Statement (.wrDrpAdr d) := by simp only [Statement, Instr.offset]; decide
theorem rdDrpDatW : Statement .rdDrpDatW := by unfold Statement; decide
theorem wrDrpDatW (d : Word) : Statement (.wrDrpDatW d) := by simp only [Statement, Instr.offset]; decide
theorem rdDrpDatR : Statement .rdDrpDatR := by unfold Statement; decide
theorem wrDrpDatR (d : Word) : Statement (.wrDrpDatR d) := by simp only [Statement, Instr.offset]; decide
theorem rdDrpReady : Statement .rdDrpReady := by unfold Statement; decide
theorem wrDrpReady (d : Word) : Statement (.wrDrpReady d) := by simp only [Statement, Instr.offset]; decide
theorem rdDrpRead : Statement .rdDrpRead := by unfold Statement; decide
theorem wrDrpRead (d : Word) : Statement (.wrDrpRead d) := by simp only [Statement, Instr.offset]; decide
theorem rdDrpWrite : Statement .rdDrpWrite := by unfold Statement; decide
theorem wrDrpWrite (d : Word) : Statement (.wrDrpWrite d) := by simp only [Statement, Instr.offset]; decide
theorem rdEvPending (k : BitVec 4) : Statement (.rdEvPending k) := pending_aligned k
theorem wrEvPending (k : BitVec 4) (d : Word) : Statement (.wrEvPending k d) := pending_aligned k
theorem rdEvEnable (k : BitVec 4) : Statement (.rdEvEnable k) := enable_aligned k
theorem wrEvEnable (k : BitVec 4) (d : Word) : Statement (.wrEvEnable k d) := enable_aligned k
theorem rdEvPolarity (k : BitVec 4) : Statement (.rdEvPolarity k) := polarity_aligned k
theorem wrEvPolarity (k : BitVec 4) (d : Word) : Statement (.wrEvPolarity k d) := polarity_aligned k

end Sys2Proof.Laws.Aligned
end

