-- ==== Sys2Proof/Tests/Slice0.lean ====
section
/-! SUPPORT. The model's own tests. Section numbers, V and P numbers are those of `95_test_vectors.md`; every
expected value is taken from there or worked by hand from the rule named. -/

namespace Sys2Proof.Tests
open Sys2Proof Sys2Proof.Machine

/-- A quiet cycle with the transaction `i` as its request. -/
def ask (i : Instr) : Input := { Input.quiet with req := encode i }

/-- A quiet cycle with the request `q`. -/
def req (q : Request) : Input := { Input.quiet with req := q }

/-- The machine of build `cfg` with record `b`, about to run the listed cycles. -/
def at_ (cfg : Config) (b : Block) (inputs : List Input) : State :=
  { State.resetOf cfg with blk := b, inputs := inputs }

/-- The reference build (section 0) right after reset, about to run the listed cycles. -/
def fresh (inputs : List Input) : State := at_ Config.reference (Block.reset Config.reference) inputs

/-- The reset record of the reference build. -/
def r0 : Block := Block.reset Config.reference

/-- The state after a step; none after a fault. -/
def stepTo (s : State) : Option State :=
  match step s with
  | .next t => some t
  | .fault _ => none
  | .refused _ => none

/-- The fault of a step. -/
def faultOf (s : State) : Option Fault :=
  match step s with
  | .fault f => some f
  | .next _ => none
  | .refused _ => none

/-- The read data of a step. -/
def readOf (s : State) : Option Word := (stepTo s).map fun t => t.out.rdata

/-- Manager 0 with the given pending bits and enable mask, the other one at reset. -/
def m0 (pending enable : Word) : Block :=
  { r0 with ev := [⟨pending, enable, 0#32, 0#32⟩, ⟨0#32, 0#32, 0#32, 0#32⟩] }

-- WellFormed: an ill-formed term for each check (30_encoding R72, 00_scope R11).

theorem test_wf_manager_absent : (Instr.rdEvPending 2#4).wellFormed Config.reference = false := by decide
theorem test_wf_polarity_absent : (Instr.wrEvPolarity 0#4 1#32).wellFormed Config.reference = false := by decide
theorem test_wf_manager_present : (Instr.rdEvPolarity 1#4).wellFormed Config.reference = true := by decide
theorem test_wf_config_reference : Config.reference.WF := by decide
theorem test_wf_config_populated : Config.populated.WF := by decide
theorem test_wf_config_one_stage : ¬ ({ Config.reference with syncStages := 1 }).WF := by decide
theorem test_wf_config_no_source : ¬ ({ Config.reference with evSources := [[]] }).WF := by decide
theorem test_wf_config_33_sources :
    ¬ ({ Config.reference with evSources := [List.replicate 33 ⟨"x", .risingPulse, .inDomain, false⟩] }).WF := by
  decide
theorem test_wf_config_no_channel :
    ¬ ({ Config.reference with evSources := [[⟨"x", .risingPulse, .async 2, false⟩]] }).WF := by decide
theorem test_wf_config_17_managers :
    ¬ ({ Config.reference with evSources := List.replicate 17 Config.populatedSources }).WF := by decide

-- Decoding: the request words of section 0, each as a transaction word (log 6).

theorem test_word_power : decodeTableWord 40 0x000000000 = some .rdPower ∧
    decodeTableWord 72 (0x100000000 + 0x2B * 2 ^ 40) = some (.wrPower 0x2B#32) := by decide
theorem test_word_rebootCtrl : decodeTableWord 40 0x000000800 = some .rdRebootCtrl ∧
    decodeTableWord 72 (0x100000800 + 0xAC * 2 ^ 40) = some (.wrRebootCtrl 0xAC#32) := by decide
theorem test_word_rebootAddr : decodeTableWord 40 0x000000804 = some .rdRebootAddr ∧
    decodeTableWord 72 (0x100000804 + 0x20500000 * 2 ^ 40) = some (.wrRebootAddr 0x20500000#32) := by decide
theorem test_word_drpAdr : decodeTableWord 40 0x000001000 = some .rdDrpAdr ∧
    decodeTableWord 72 (0x100001000 + 0x08 * 2 ^ 40) = some (.wrDrpAdr 0x08#32) := by decide
theorem test_word_drpDatW : decodeTableWord 40 0x000001004 = some .rdDrpDatW ∧
    decodeTableWord 72 (0x100001004 + 0x1042 * 2 ^ 40) = some (.wrDrpDatW 0x1042#32) := by decide
theorem test_word_drpDatR : decodeTableWord 40 0x000001008 = some .rdDrpDatR ∧
    decodeTableWord 40 0x100001008 = some (.wrDrpDatR 0#32) := by decide
theorem test_word_drpReady : decodeTableWord 40 0x00000100C = some .rdDrpReady ∧
    decodeTableWord 40 0x10000100C = some (.wrDrpReady 0#32) := by decide
theorem test_word_drpRead : decodeTableWord 40 0x000001010 = some .rdDrpRead ∧
    decodeTableWord 40 0x100001010 = some (.wrDrpRead 0#32) := by decide
theorem test_word_drpWrite : decodeTableWord 40 0x000001014 = some .rdDrpWrite ∧
    decodeTableWord 40 0x100001014 = some (.wrDrpWrite 0#32) := by decide
theorem test_word_evPending : decodeTableWord 40 0x000008800 = some (.rdEvPending 1#4) ∧
    decodeTableWord 72 (0x100008000 + 0x7 * 2 ^ 40) = some (.wrEvPending 0#4 7#32) := by decide
theorem test_word_evEnable : decodeTableWord 40 0x000008004 = some (.rdEvEnable 0#4) ∧
    decodeTableWord 72 (0x100008804 + 0x1 * 2 ^ 40) = some (.wrEvEnable 1#4 1#32) := by decide
/-- `k = RQ[14:11]` at its largest value: `0x8000 + 0x800*15 + 0x8 = 0xF808` (20_memory R59). -/
theorem test_word_evPolarity : decodeTableWord 40 0x000008808 = some (.rdEvPolarity 1#4) ∧
    decodeTableWord 72 (0x10000F808 + 0xFFFFFFFF * 2 ^ 40) = some (.wrEvPolarity 15#4 0xFFFFFFFF#32) := by decide
/-- V50, V32e: words of no register. -/
theorem test_word_rejected : decodeTableWord 40 0x000000002 = none ∧ decodeTableWord 40 0x100000004 = none ∧
    decodeTableWord 40 0x000000808 = none ∧ decodeTableWord 40 0x000001018 = none ∧
    decodeTableWord 40 0x000001800 = none ∧ decodeTableWord 40 0x000010000 = none ∧
    decodeTableWord 40 0x00000800C = none ∧ decodeTableWord 40 (2 ^ 33) = none := by decide
/-- V50: decode of requests in the reference build. -/
theorem test_decode_v50 : decode Config.reference (.read 0x0000#32 4) = .transaction .rdPower ∧
    decode Config.reference (.read 0x0002#32 4) = .rejected .unmapped ∧
    decode Config.reference (.read 0x0000#32 2) = .rejected .badWidth ∧
    decode Config.reference (.write 0x0004#32 4 0#32) = .rejected .unmapped ∧
    decode Config.reference (.read 0x8808#32 4) = .transaction (.rdEvPolarity 1#4) ∧
    decode Config.reference (.write 0x8800#32 4 1#32) = .transaction (.wrEvPending 1#4 1#32) := by decide
/-- V32e: a POLARITY register the build does not have, and a manager it does not have. -/
theorem test_decode_v32e : decode Config.reference (.read 0x8008#32 4) = .rejected .unmapped ∧
    decode Config.reference (.read 0x9000#32 4) = .rejected .unmapped := by decide

-- The host's placement: the transaction runs as the first cycle after reset (log 6).

theorem test_fetch_power : readOf (State.reset.withFetchWord 40 0x000000000) = some 0x0A#32 := by decide
theorem test_fetch_strobe :
    (stepTo (State.reset.withFetchWord 40 0x100001010)).map (fun t => t.blk.drpBusy) = some .rd := by decide
theorem test_fetch_polarity :
    (stepTo (State.reset.withFetchWord 72 (0x10000F808 + 0xFFFFFFFF * 2 ^ 40))).map
      (fun t => (t.blk.managerAt 15).polarity) = some 1#32 := by decide

-- Power (V1 to V4, V2).

theorem test_rdPower_v1 : readOf (fresh [ask .rdPower]) = some 0x0000000A#32 := by decide
theorem test_wrPower_v3 : (stepTo (fresh [ask (.wrPower 0xFFFFFFFF#32)])).map (fun t => t.blk.power) =
    some 0xFF#8 := by decide
theorem test_wrPower_v4 : ((stepTo (fresh [ask (.wrPower 0x2B#32), ask .rdPower])).bind stepTo).map
    (fun t => (t.out.rdata, t.out.audioOn, t.out.snoopAllowN, t.out.memS0, t.out.memS1, t.out.noisebiasOn)) =
    some (0x0000002B#32, true, true, true, false, true) := by decide
theorem test_reset_cycle_v2 :
    (stepTo (at_ Config.reference { r0 with power := 0xFF#8 } [{ Input.quiet with rstIn := true }])).map
      (fun t => (t.out.audioOn, t.out.sysOn, t.out.memS0, t.out.memS1, t.out.noiseOn, t.blk.power)) =
    some (false, true, false, false, 0#2, 0x0A#8) := by decide

-- Warm reboot (V12 to V26).

theorem test_rdRebootCtrl_p4 :
    readOf (at_ Config.reference { r0 with rebootCtrl := 0xBC#8 } [ask .rdRebootCtrl]) = some 0xBC#32 := by decide
theorem test_wrRebootCtrl_v25 :
    ((stepTo (fresh [ask (.wrRebootCtrl 0x123456AC#32), Input.quiet])).bind stepTo).map
      (fun t => t.out.rebootReq) = some true := by decide
theorem test_rdRebootAddr_v1 : readOf (fresh [ask .rdRebootAddr]) = some 0x20000000#32 := by decide
theorem test_wrRebootAddr_p4 :
    ((stepTo (fresh [ask (.wrRebootAddr 0x20500000#32), Input.quiet])).bind stepTo).map
      (fun t => t.out.resetVector) = some 0x20500000#32 := by decide
theorem test_auth_v12_to_v24 :
    [0xAC#8, 0xAD#8, 0xAE#8, 0xAF#8, 0xBC#8, 0x00#8, 0x53#8, 0xEC#8, 0x2C#8, 0x8C#8, 0xA4#8, 0xA8#8, 0xFF#8].map auth
      = [true, true, true, true, false, false, false, false, false, false, false, false, false] := by decide

/-- V26: the record and the build of the vector. -/
def v26 (scope : WarmResetScope) : State :=
  at_ { Config.reference with warmResetScope := scope }
    { r0 with rebootCtrl := 0xAC#8, rebootAddr := 0x20500000#32, power := 0x2B#8 } [Input.quiet]
/-- V26: the three registers of the vector after the cycle. -/
def v26After (scope : WarmResetScope) : Option (BitVec 8 × BitVec 8 × Word) :=
  (stepTo (v26 scope)).map fun t => (t.blk.rebootCtrl, t.blk.power, t.blk.rebootAddr)
theorem test_scope_v26 : v26After .none = some (0xAC#8, 0x2B#8, 0x20500000#32) ∧
    v26After .ctrlOnly = some (0x00#8, 0x2B#8, 0x20500000#32) ∧
    v26After .all = some (0x00#8, 0x0A#8, 0x20500000#32) ∧
    v26After .allInclAddr = some (0x00#8, 0x0A#8, 0x20000000#32) := by decide

-- Clock port (V40 to V49).

/-- A record with the clock port busy. -/
def busy (b : DrpBusy) : Block :=
  { r0 with drpBusy := b, drpReady := false, drpAdr := 0x08#7, drpDatW := 0x1042#16, drpDatR := 0x7777#16 }
/-- A quiet cycle in which the PLL answers with `0x1041`. -/
def answer (i : Instr) : Input := { ask i with drpRdy := true, drpDo := 0x1041#16 }

theorem test_rdDrpAdr : readOf (at_ Config.reference (busy .rd) [ask .rdDrpAdr]) = some 0x08#32 := by decide
theorem test_wrDrpAdr_v47 : (stepTo (fresh [ask (.wrDrpAdr 0xFF#32)])).map (fun t => t.blk.drpAdr) =
    some 0x7F#7 := by decide
/-- V49: a write while busy leaves the request. -/
theorem test_wrDrpAdr_v49 : (stepTo (at_ Config.reference (busy .rd) [ask (.wrDrpAdr 0x10#32)])).map
    (fun t => (t.blk.drpAdr, t.blk.drpBusy)) = some (0x10#7, .rd) := by decide
theorem test_rdDrpDatW : readOf (at_ Config.reference (busy .rd) [ask .rdDrpDatW]) = some 0x1042#32 := by decide
theorem test_wrDrpDatW_v47 : (stepTo (fresh [ask (.wrDrpDatW 0x12345678#32)])).map (fun t => t.blk.drpDatW) =
    some 0x5678#16 := by decide
theorem test_rdDrpDatR : readOf (at_ Config.reference (busy .rd) [ask .rdDrpDatR]) = some 0x7777#32 := by decide
theorem test_wrDrpDatR_v47 : (stepTo (at_ Config.reference (busy .rd) [ask (.wrDrpDatR 0xFFFF#32)])).map
    (fun t => t.blk.drpDatR) = some 0x7777#16 := by decide
/-- V41, cycle t+3: ready still reads 0 in the cycle of the completion. -/
theorem test_rdDrpReady_v41 : readOf (at_ Config.reference (busy .rd) [answer .rdDrpReady]) = some 0#32 := by decide
theorem test_completion_v41 : (stepTo (at_ Config.reference (busy .rd) [answer .rdDrpReady])).map
    (fun t => (t.blk.drpReady, t.blk.drpDatR, t.blk.drpBusy)) = some (true, 0x1041#16, .idle) := by decide
theorem test_completion_v45 : (stepTo (at_ Config.reference (busy .wr) [answer .rdDrpReady])).map
    (fun t => (t.blk.drpReady, t.blk.drpDatR, t.blk.drpBusy)) = some (true, 0x7777#16, .idle) := by decide
theorem test_stray_v46 : (stepTo (fresh [answer .rdDrpReady])).map (fun t => (t.blk.drpDatR, t.blk.drpReady)) =
    some (0#16, true) := by decide
theorem test_wrDrpReady_v47 : (stepTo (fresh [ask (.wrDrpReady 0#32)])).map (fun t => t.blk.drpReady) =
    some true := by decide
theorem test_rdDrpRead_v40 : readOf (fresh [ask .rdDrpRead]) = some 0#32 := by decide
theorem test_wrDrpRead_v40 : ((stepTo (fresh [ask (.wrDrpRead 0#32), Input.quiet])).bind fun t =>
    (stepTo t).map fun u => (t.out.drpEn, t.out.drpWe, u.out.drpEn, t.blk.drpReady)) =
    some (true, false, false, false) := by decide
theorem test_rdDrpWrite : readOf (fresh [ask .rdDrpWrite]) = some 0#32 := by decide
theorem test_wrDrpWrite_v48 :
    (stepTo (at_ Config.reference { busy .idle with drpReady := true } [ask (.wrDrpWrite 0#32)])).map
      (fun t => (t.out.drpEn, t.out.drpWe, t.out.drpAddr, t.out.drpDi, t.blk.drpBusy)) =
    some (true, true, 0x08#7, 0x1042#16, .wr) := by decide
/-- V43, the second half: overlap in the cycle of the completion. -/
theorem test_overlap_v43 : faultOf (at_ Config.reference (busy .rd) [answer (.wrDrpWrite 0#32)]) =
    some (.drpOverlap (.write 0x1014#32 4 0#32) .rd) := by decide
theorem test_priority_v44 : faultOf (at_ Config.reference (busy .rd) [req (.write 0x1010#32 2 0#32)]) =
    some (.badWidth (.write 0x1010#32 2 0#32)) := by decide

-- Event managers (V28 to V32f).

/-- One source of the reference build's manager 0 (source 2, rising) with the inputs of V28. -/
def v28 (prev v pending clr : Bool) : Option Bool :=
  let bit (x : Bool) : Word := if x then 4#32 else 0#32
  (stepTo (at_ Config.reference { r0 with ev := [⟨bit pending, 0#32, 0#32, bit prev⟩, ⟨0#32, 0#32, 0#32, 0#32⟩] }
    [{ ask (.wrEvPending 0#4 (bit clr)) with evin := [bit v] }])).map
      fun t => (t.blk.managerAt 0).pending.getLsbD 2
theorem test_latch_v28_rising : [v28 false true false false, v28 true true false false, v28 true false false false,
      v28 false false true false, v28 false false true true, v28 false true true true, v28 false true false true,
      v28 false true true false] =
    [some true, some false, some false, some true, some false, some true, some true, some true] := by decide
theorem test_edge_v28_falling :
    [edgeEvent .fallingLatched false true, edgeEvent .fallingLatched true false,
      edgeEvent .fallingLatched false false, edgeEvent .fallingLatched true true] = [true, false, false, false] := by
  decide
theorem test_rdEvPending_v30 : readOf (at_ Config.reference (m0 0b101#32 0#32) [ask (.rdEvPending 0#4)]) =
    some 0x00000005#32 := by decide
theorem test_wrEvPending_v31 : (stepTo (at_ Config.reference (m0 0b101#32 0#32) [ask (.wrEvPending 0#4 1#32)])).map
    (fun t => (t.blk.managerAt 0).pending) = some 0b100#32 := by decide
theorem test_wrEvPending_v31_high :
    (stepTo (at_ Config.reference (m0 0b100#32 0#32) [ask (.wrEvPending 0#4 0xFFFFFFF8#32)])).map
      (fun t => (t.blk.managerAt 0).pending) = some 0b100#32 := by decide
theorem test_line_v32 : [(m0 0b101#32 0b010#32).irqLines Config.reference, (m0 0b101#32 0b100#32).irqLines
      Config.reference, (m0 0#32 0b111#32).irqLines Config.reference, (m0 0b011#32 0b011#32).irqLines Config.reference]
    = [[false, false], [true, false], [false, false], [true, false]] := by decide
theorem test_simultaneous_v32a :
    (stepTo (at_ Config.reference { r0 with ev := [⟨0#32, 0#32, 0#32, 0b010#32⟩, ⟨0#32, 0#32, 0#32, 0#32⟩] }
      [{ Input.quiet with evin := [0b100#32] }])).map (fun t => (t.blk.managerAt 0).pending) = some 0b110#32 := by
  decide
theorem test_rdEvEnable : readOf (at_ Config.reference (m0 0#32 0b110#32) [ask (.rdEvEnable 0#4)]) =
    some 0b110#32 := by decide
theorem test_wrEvEnable_v32f : ((stepTo (fresh [ask (.wrEvEnable 0#4 0xFFFFFFFF#32), ask (.rdEvEnable 0#4)])).bind
    readOf) = some 0x00000007#32 := by decide
theorem test_rdEvPolarity : readOf (fresh [ask (.rdEvPolarity 1#4)]) = some 0#32 := by decide
theorem test_wrEvPolarity_v32f :
    ((stepTo (fresh [ask (.wrEvPolarity 1#4 0xFFFFFFFF#32), ask (.rdEvPolarity 1#4)])).bind readOf) =
      some 0x00000001#32 := by decide
/-- V32d: an event two cycles after the write. -/
theorem test_wrEvPolarity_v32d : ((stepTo (fresh [ask (.wrEvPolarity 1#4 3#32), Input.quiet])).bind fun t =>
    (stepTo t).map fun u => ((t.blk.managerAt 1).pending, (u.blk.managerAt 1).pending)) = some (0#32, 1#32) := by
  decide

-- Synchronizer (V33) and the idle cycle (V51).

/-- V33, the cycle of the change with either draw, in a chain at 0. -/
theorem test_chain_v33 : [true, false].map (fun draw => (SyncChain.reset 2 false).next 2 true draw) =
    [⟨[true, false], true⟩, ⟨[false, false], true⟩] := by decide
theorem test_idle_v51 : (stepTo (fresh [{ Input.quiet with evin := [0b100#32], raw := [true], draws := ⟨0#32, [true]⟩ }])).map
    (fun t => (t.blk.power, (t.blk.managerAt 0).pending, t.blk.sync)) =
    some (0x0A#8, 0b100#32, [⟨[true, false], true⟩, ⟨[false, false], false⟩]) := by decide

-- Bus programs (30_encoding R82, P4).

theorem test_reboot_p4 : script (rebootLines 0x20500000#32) =
    [req (.write 0x0804#32 4 0x20500000#32), req (.write 0x0800#32 4 0xAC#32)] := by decide
theorem test_setf : setField 0x0000000A#32 4 3 0b10#32 = 0x00000012#32 := by decide

-- Witnesses: for every obligation with hypotheses, a concrete state and operands that meet them together.

/-- The state after a step that answers one. -/
def nx (s : State) : State := (stepTo s).getD s

/-- A reset cycle's input. -/
def resetIn : Input := { Input.quiet with rstIn := true }
/-- A cycle without lock. -/
def noLock : Input := { Input.quiet with pllLocked := false }
/-- A build whose warm-reboot request ends by itself, with the default address out of the way. -/
def withScope (scope : WarmResetScope) (b : Block) (inputs : List Input) : State :=
  at_ { Config.reference with warmResetScope := scope } b inputs

/-- The two kinds of run without a warm reset: scope `ctrl_only` with the request up at its start, and scope `all`
with no request. -/
def calm (up : Bool) (b : Block) (inputs : List Input) : State :=
  if up then withScope .ctrlOnly { b with rebootCtrl := 0xAC#8 } inputs else withScope .all b inputs

theorem quiet_ne_encode (i : Instr) : Input.quiet.req ≠ encode i := by
  unfold encode; cases i.writeData <;> simp [Input.quiet]

theorem witness_DecodeOfEncodeIsTheTransaction : (Instr.rdEvPolarity 1#4).wellFormed Config.reference = true ∧
    (Instr.wrEvPending 15#4 0xFFFFFFFF#32).wellFormed Config.populated = true := by decide
theorem witness_DecodedRequestIsItsEncoding :
    decode Config.populated (.write 0xF808#32 4 7#32) = .transaction (.wrEvPolarity 15#4 7#32) := by decide
theorem witness_OpcodeRowsDoNotOverlap : opcodeTable[22]?.map (fun r => r.selects 0x00000F808#33) = some true ∧
    opcodeTable[0]?.map (fun r => r.selects 0#33) = some true ∧ fixedRows.length = 18 ∧ evRows.length = 6 := by decide
theorem witness_OffsetsOfTheMap_unmapped :
    (let s := fresh [req (.read 0x8008#32 4)]
     s.inReset = false ∧ ¬ Mapped s.cfg 0x8008#32 ∧ s.input.req = .read 0x8008#32 4) ∧
    (let s := fresh [req (.write 0x9000#32 4 5#32)]
     s.inReset = false ∧ ¬ Mapped s.cfg 0x9000#32 ∧ s.input.req = .write 0x9000#32 4 5#32) ∧
    decode Config.reference (.read 0x8808#32 4) = .transaction (.rdEvPolarity 1#4) ∧
    decode Config.reference (.write 0x1014#32 4 0#32) = .transaction (.wrDrpWrite 0#32) := by decide
theorem witness_OffsetsOfTheMap_mapped : Config.reference.WF ∧ Mapped Config.reference 0x8808#32 ∧
    Mapped Config.reference 0x0000#32 ∧ Config.populated.WF ∧ Mapped Config.populated 0xF808#32 := by decide
theorem witness_OtherSizesAreBadWidth :
    (let s := fresh [req (.read 0x0000#32 2)]; s.inReset = false ∧ s.input.req = .read 0x0000#32 2) ∧
    (let s := fresh [req (.write 0x1010#32 5 0#32)]; s.inReset = false ∧ s.input.req = .write 0x1010#32 5 0#32) := by
  decide
theorem witness_FaultPriority_reset :
    let s := fresh [{ resetIn with req := .read 2#32 1 }]
    s.input.req = (if false then .write 2#32 1 0#32 else .read 2#32 1) ∧ s.inReset = true := by decide
theorem witness_FaultPriority_width :
    let s := at_ Config.reference (busy .rd) [req (.write 0x1010#32 1 0#32)]
    s.input.req = (if true then .write 0x1010#32 1 0#32 else .read 0x1010#32 1) ∧ s.inReset = false := by decide
theorem witness_FaultPriority_hole :
    let s := fresh [req (.read 2#32 4)]
    s.input.req = (if false then .write 2#32 4 0#32 else .read 2#32 4) ∧ s.inReset = false ∧
      ∀ i : Instr, i.wellFormed s.cfg = true → encode i ≠ s.input.req := by
  refine ⟨by decide, by decide, fun i _ => ?_⟩
  show encode i ≠ .read 2#32 4
  cases i with
  | rdEvPending k => simp only [encode, Instr.writeData, Instr.offset]; revert k; decide
  | rdEvEnable k => simp only [encode, Instr.writeData, Instr.offset]; revert k; decide
  | rdEvPolarity k => simp only [encode, Instr.writeData, Instr.offset]; revert k; decide
  | _ => simp [encode, Instr.writeData, Instr.offset]
theorem witness_FaultPriority_overlap :
    let s := at_ Config.reference (busy .wr) [req (.write 0x1010#32 4 9#32)]
    s.input.req = (if true then .write 0x1010#32 4 9#32 else .read 0x1010#32 4) ∧ s.inReset = false ∧
      s.blk.drpBusy ≠ .idle ∧ s.input.req = encode (.wrDrpRead 9#32) := by decide
theorem witness_StepRunsTheDecodedTransaction :
    (let s := fresh [ask (.wrEvPolarity 1#4 3#32)]
     s.inReset = false ∧ (Instr.wrEvPolarity 1#4 3#32).wellFormed s.cfg = true ∧
       s.input.req = encode (.wrEvPolarity 1#4 3#32)) ∧
    (fresh [Input.quiet]).inReset = false ∧ (fresh [Input.quiet]).input.req = .idle := by decide
theorem witness_StepKeepsTheBuild : step (fresh [Input.quiet]) = .next (nx (fresh [Input.quiet])) := rfl
theorem witness_StepKeepsInvariant : (fresh [ask (.wrEvEnable 0#4 0xFF#32)]).Inv ∧
    step (fresh [ask (.wrEvEnable 0#4 0xFF#32)]) = .next (nx (fresh [ask (.wrEvEnable 0#4 0xFF#32)])) :=
  ⟨by decide, rfl⟩
theorem witness_ResetHasInvariant : Config.reference.WF ∧ Config.populated.WF := by decide
theorem witness_IdleCycleStoresNothing :
    let s := fresh [{ Input.quiet with evin := [4#32] }]
    s.inReset = false ∧ s.KeepsUpdates ∧ s.input.req = .idle ∧ (RegRef.evEnable 0#4).mode = .rw := by decide
theorem witness_ReadsHaveNoSideEffects :
    let s := fresh [ask (.rdEvPending 1#4)]
    s.inReset = false ∧ IsRead (.rdEvPending 1#4) ∧ (Instr.rdEvPending 1#4).wellFormed s.cfg = true := by decide
theorem witness_StorageChangesByItsOwnWriteOnly :
    (let s := fresh [ask (.wrPower 0xFF#32)]
     s.Inv ∧ s.inReset = false ∧ s.KeepsUpdates ∧ RegRef.power.mode = .rw ∧ step s = .next (nx s) ∧
       s.input.req = encode (RegRef.power.writeInstr 0xFF#32)) ∧
    (let s := fresh [Input.quiet]
     s.Inv ∧ s.inReset = false ∧ s.KeepsUpdates ∧ step s = .next (nx s) ∧
       ∀ d, s.input.req ≠ encode (RegRef.power.writeInstr d)) :=
  ⟨⟨by decide, by decide, by decide, by decide, rfl, by decide⟩,
   ⟨by decide, by decide, by decide, rfl, fun _ => quiet_ne_encode _⟩⟩
/-- The hypotheses for a write of `d` to `r` in the reference build, then a quiet cycle. -/
def writeThenRead (r : RegRef) (d : Word) : Prop :=
  let s := fresh [ask (r.writeInstr d), Input.quiet]
  s.Inv ∧ s.inReset = false ∧ s.KeepsUpdates ∧ (nx s).inReset = false ∧ r.readInstr.wellFormed s.cfg = true ∧
    exec (r.writeInstr d) s = .next (nx s)
theorem witness_WriteThenRead : writeThenRead (.evPolarity 1#4) 3#32 ∧ writeThenRead .drpRead 1#32 ∧
    writeThenRead .drpDatR 0xFFFF#32 :=
  ⟨⟨by decide, by decide, by decide, by decide, by decide, rfl⟩,
   ⟨by decide, by decide, by decide, by decide, by decide, rfl⟩,
   ⟨by decide, by decide, by decide, by decide, by decide, rfl⟩⟩
theorem witness_ResetValues :
    (Config.reference.sources 1)[1]? = some ⟨"m1s1", .risingPulse, .inDomain, false⟩ ∧
      Config.reference.syncInit[1]? = some false := by decide
theorem witness_ResetCycle :
    (let s := fresh [resetIn]; s.cfg.WF ∧ s.input.rstIn = true) ∧
    (let s := fresh [noLock]; s.cfg.WF ∧ s.input.pllLocked = false) := by decide
theorem witness_IsolationForcedThenReleased :
    let s := fresh [resetIn, Input.quiet]
    s.inReset = true ∧ step s = .next (nx s) ∧ (nx s).inReset = false ∧ (nx s).input.req = .idle ∧
      step (nx s) = .next (nx (nx s)) := ⟨by decide, rfl, by decide, by decide, rfl⟩
theorem witness_PowerRead : (fresh [ask .rdPower]).inReset = false := by decide
theorem witness_PowerWrite :
    let s := fresh [ask (.wrPower 0x2B#32)]; s.inReset = false ∧ s.KeepsUpdates := by decide
theorem witness_RailOutputs : (fresh [Input.quiet]).inReset = false ∧ (fresh [resetIn]).inReset = true ∧
    step (fresh [Input.quiet]) = .next (nx (fresh [Input.quiet])) ∧
    step (fresh [resetIn]) = .next (nx (fresh [resetIn])) := ⟨by decide, by decide, rfl, rfl⟩
theorem witness_RebootReads : (fresh [ask .rdRebootCtrl]).inReset = false := by decide
theorem witness_RebootCtrlWrite :
    let s := fresh [ask (.wrRebootCtrl 0xAC#32), Input.quiet]
    s.inReset = false ∧ s.KeepsUpdates ∧ (nx s).inReset = false ∧ step (nx s) = .next (nx (nx s)) :=
  ⟨by decide, by decide, by decide, rfl⟩
theorem witness_RebootAddrWrite :
    let s := fresh [ask (.wrRebootAddr 0x20500000#32), Input.quiet]
    s.inReset = false ∧ s.KeepsUpdates ∧ (nx s).inReset = false ∧ step (nx s) = .next (nx (nx s)) :=
  ⟨by decide, by decide, by decide, rfl⟩
theorem witness_RebootRequestPattern : step (v26 .none) = .next (nx (v26 .none)) ∧ auth 0xAC#8 = true :=
  ⟨rfl, by decide⟩
theorem witness_ResetVectorFollowsRebootAddr :
    (let s := fresh [Input.quiet]; step s = .next (nx s) ∧ s.inReset = false) ∧
    (let s := fresh [noLock]; step s = .next (nx s) ∧ s.inReset = true) := ⟨⟨rfl, by decide⟩, ⟨rfl, by decide⟩⟩
/-- The hypotheses on the state of V26 in the build with the scope. -/
def warmReset (scope : WarmResetScope) : Prop :=
  (v26 scope).inReset = false ∧ auth (v26 scope).blk.rebootCtrl = true ∧
    step (v26 scope) = .next (nx (v26 scope)) ∧ (v26 scope).cfg.warmResetScope = scope
theorem witness_WarmResetScopes :
    warmReset .none ∧ warmReset .ctrlOnly ∧ warmReset .all ∧ warmReset .allInclAddr :=
  ⟨⟨by decide, by decide, rfl, rfl⟩, ⟨by decide, by decide, rfl, rfl⟩, ⟨by decide, by decide, rfl, rfl⟩,
   ⟨by decide, by decide, rfl, rfl⟩⟩
/-- The hypotheses of a warm reboot in the build with the scope, with the two quiet cycles after it. -/
def warmReboot (scope : WarmResetScope) : Prop :=
  let s := withScope scope { r0 with rebootAddr := 0x20500000#32 } [ask (.wrRebootCtrl 0xAC#32), Input.quiet, Input.quiet]
  s.inReset = false ∧ auth s.blk.rebootCtrl = false ∧ auth ((0xAC#32 : Word).extractLsb' 0 8) = true ∧
    s.cfg.warmResetScope ≠ .none ∧ (nx s).inReset = false ∧ (nx s).input.req = .idle ∧
    (nx (nx s)).inReset = false ∧ (nx (nx s)).input.req = .idle
theorem witness_WarmRebootRestartsTheCpu : warmReboot .ctrlOnly ∧ warmReboot .all ∧ warmReboot .allInclAddr :=
  ⟨⟨by decide, by decide, by decide, by decide, by decide, by decide, by decide, by decide⟩,
   ⟨by decide, by decide, by decide, by decide, by decide, by decide, by decide, by decide⟩,
   ⟨by decide, by decide, by decide, by decide, by decide, by decide, by decide, by decide⟩⟩
theorem witness_ClockPortReads : (fresh [ask .rdDrpReady]).inReset = false := by decide
theorem witness_ClockPortStorageWrites :
    let s := at_ Config.reference (busy .rd) [ask (.wrDrpAdr 0x10#32)]
    s.inReset = false ∧ s.KeepsUpdates := by decide
theorem witness_StatusFieldsIgnoreWrites : (fresh [ask (.wrDrpDatR 0xFFFF#32)]).inReset = false := by decide
theorem witness_StrobesIssueRequests :
    let s := fresh [answer (.wrDrpRead 0#32)]
    s.inReset = false ∧ s.KeepsUpdates ∧ s.blk.drpBusy = .idle := by decide
theorem witness_ClockPortOutputs :
    (let s := fresh [ask (.wrDrpWrite 0#32)]; step s = .next (nx s) ∧ s.inReset = false) ∧
    (let s := fresh [{ resetIn with req := encode (.wrDrpWrite 0#32) }]
     step s = .next (nx s) ∧ s.inReset = true) := ⟨⟨rfl, by decide⟩, ⟨rfl, by decide⟩⟩
/-- The hypotheses of a cycle of the clock port. -/
def portCycle (s : State) : Prop := s.inReset = false ∧ s.KeepsUpdates ∧ step s = .next (nx s)
theorem witness_ClockPortCompletion :
    (let s := at_ Config.reference (busy .rd) [answer .rdDrpReady]
     portCycle s ∧ s.blk.drpBusy ≠ .idle ∧ s.input.drpRdy = true) ∧
    (let s := at_ Config.reference (busy .wr) [ask .rdDrpReady]
     portCycle s ∧ s.blk.drpBusy ≠ .idle ∧ s.input.drpRdy = false) ∧
    (let s := fresh [answer .rdDrpReady]
     portCycle s ∧ s.blk.drpBusy = .idle ∧ strobes s = false) :=
  ⟨⟨⟨by decide, by decide, rfl⟩, by decide⟩, ⟨⟨by decide, by decide, rfl⟩, by decide⟩,
   ⟨⟨by decide, by decide, rfl⟩, by decide⟩⟩
/-- The hypotheses on two cycles in which the PLL does not answer. -/
def unanswered (up : Bool) : Prop :=
  let s := calm up (busy .rd) [Input.quiet, ask (.wrDrpReady 1#32)]
  s.Inv ∧ NoWarmResetFor 2 s ∧ NoResetFor 2 s ∧ s.blk.drpBusy ≠ .idle ∧
    (∀ inp ∈ s.inputs.take 2, inp.drpRdy = false) ∧ core.run 2 s = .next (nx (nx s))
theorem witness_UnansweredRequestStaysOutstanding : unanswered true ∧ unanswered false :=
  ⟨⟨by decide, by decide, by decide, by decide, by decide, rfl⟩,
   ⟨by decide, by decide, by decide, by decide, by decide, rfl⟩⟩
/-- The hypotheses on the completion of a read and two more cycles; the last writes an unauthorized value. -/
def readData (up : Bool) : Prop :=
  let s := calm up (busy .rd) [answer .rdPower, Input.quiet, ask (.wrRebootCtrl 0xBC#32)]
  s.Inv ∧ NoWarmResetFor (2 + 1) s ∧ s.inReset = false ∧ s.blk.drpBusy = .rd ∧ s.input.drpRdy = true ∧
    step s = .next (nx s) ∧ NoResetFor 2 (nx s) ∧
    (∀ inp ∈ (nx s).inputs.take 2, ∀ d, inp.req ≠ encode (.wrDrpRead d)) ∧
    core.run 2 (nx s) = .next (nx (nx (nx s)))
theorem noReadStrobe : ∀ inp ∈ [Input.quiet, ask (.wrRebootCtrl 0xBC#32)], ∀ d, inp.req ≠ encode (.wrDrpRead d) := by
  intro inp h d
  rcases List.mem_pair.1 h with rfl | rfl
  · exact quiet_ne_encode _
  · intro e; exact absurd (Request.write.inj e).1 (by simp [Instr.offset])
theorem witness_ReadDataStaysUntilTheNextRead : readData true ∧ readData false :=
  ⟨⟨by decide, by decide, by decide, by decide, by decide, rfl, by decide, noReadStrobe, rfl⟩,
   ⟨by decide, by decide, by decide, by decide, by decide, rfl, by decide, noReadStrobe, rfl⟩⟩
theorem witness_OverlappingStrobeFaults :
    let s := at_ Config.reference (busy .rd) [answer (.wrDrpWrite 0#32)]
    s.inReset = false ∧ s.blk.drpBusy ≠ .idle := by decide
/-- A caller that polls and then strobes. -/
def goodCaller : State := fresh [ask .rdDrpReady, ask (.wrDrpRead 0#32)]
theorem witness_GoodCallerNeverOverlaps :
    goodCaller.Inv ∧ (true = true → goodCaller.blk.drpBusy = .idle) ∧ KeepsContract 2 false goodCaller ∧ 1 < 2 ∧
      core.run 1 goodCaller = .next (nx goodCaller) := by
  refine ⟨by decide, by decide, ⟨by decide, fun t ht => ?_⟩, by decide, rfl⟩
  have h : step goodCaller = .next (nx goodCaller) := rfl
  rw [h] at ht
  cases ht
  exact ⟨by decide, fun _ _ => trivial⟩
theorem witness_SourceMasks : (Config.reference.sources 1).length ≤ 32 ∧
    (List.replicate 32 (⟨"x", .selectablePolarity, .inDomain, false⟩ : Source)).length ≤ 32 := by decide
theorem witness_EventManagerReads :
    let s := fresh [ask (.rdEvPolarity 1#4)]
    s.inReset = false ∧ (1#4 : BitVec 4).toNat < s.cfg.numEv ∧ s.cfg.hasPol (1#4 : BitVec 4).toNat = true := by decide
theorem witness_PendingWrite :
    let s := at_ Config.reference (m0 0b101#32 0#32) [ask (.wrEvPending 0#4 1#32)]
    s.Inv ∧ s.inReset = false ∧ s.KeepsUpdates ∧ (0#4 : BitVec 4).toNat < s.cfg.numEv := by decide
theorem witness_EnableAndPolarityWrites :
    let s := fresh [ask (.wrEvPolarity 1#4 3#32)]
    s.Inv ∧ s.inReset = false ∧ s.KeepsUpdates ∧ (1#4 : BitVec 4).toNat < s.cfg.numEv ∧
      s.cfg.hasPol (1#4 : BitVec 4).toNat = true := by decide
theorem witness_AbsentManagersFault :
    let s := fresh [ask (.rdEvPending 2#4)]
    s.inReset = false ∧ s.cfg.numEv ≤ (2#4 : BitVec 4).toNat ∧ (0#4 : BitVec 4).toNat < s.cfg.numEv ∧
      s.cfg.hasPol (0#4 : BitVec 4).toNat = false := by decide
theorem witness_PendingLatchAndEdgeHistory :
    let s := at_ Config.reference (m0 0b101#32 0#32) [{ ask (.wrEvPending 0#4 4#32) with evin := [4#32] }]
    s.Inv ∧ s.inReset = false ∧ s.KeepsUpdates ∧ step s = .next (nx s) ∧ 0 < s.cfg.numEv ∧
      (s.cfg.sources 0)[2]? = some ⟨"m0s2", .risingPulse, .inDomain, false⟩ :=
  ⟨by decide, by decide, by decide, rfl, by decide, by decide⟩
/-- Two cycles in which source 2 of manager 0 rises and source 1 falls. -/
def twoCycles : State := fresh [{ Input.quiet with evin := [2#32] }, { Input.quiet with evin := [4#32] }]
theorem witness_EdgesBetweenTwoCycles :
    let s := twoCycles
    s.Inv ∧ s.inReset = false ∧ s.KeepsUpdates ∧ step s = .next (nx s) ∧ (nx s).inReset = false ∧
      (nx s).KeepsUpdates ∧ step (nx s) = .next (nx (nx s)) ∧ 0 < s.cfg.numEv ∧
      (s.cfg.sources 0)[2]? = some ⟨"m0s2", .risingPulse, .inDomain, false⟩ ∧
      (s.cfg.sources 0)[1]? = some ⟨"m0s1", .fallingLatched, .inDomain, false⟩ ∧
      ((nx s).blk.managerAt 0).pending.getLsbD 2 = false ∧ ((nx s).blk.managerAt 0).pending.getLsbD 1 = false :=
  ⟨by decide, by decide, by decide, rfl, by decide, by decide, rfl, by decide, by decide, by decide, by decide,
   by decide⟩
/-- The hypotheses on two cycles with source 2 of manager 0 high, its edge seen before. -/
def held (up : Bool) : Prop :=
  let high : Input := { Input.quiet with evin := [4#32] }
  let s := calm up { r0 with ev := [⟨0#32, 0#32, 0#32, 4#32⟩, ⟨0#32, 0#32, 0#32, 0#32⟩] } [high, high]
  s.Inv ∧ NoWarmResetFor 2 s ∧ NoResetFor 2 s ∧ 0 < s.cfg.numEv ∧
    (s.cfg.sources 0)[2]? = some ⟨"m0s2", .risingPulse, .inDomain, false⟩ ∧
    (s.blk.managerAt 0).prev.getLsbD 2 = true ∧ (s.blk.managerAt 0).pending.getLsbD 2 = false ∧
    (∀ inp ∈ s.inputs.take 2, (inp.evin.getD 0 0#32).getLsbD 2 = true) ∧ core.run 2 s = .next (nx (nx s))
theorem witness_HeldSignalMakesNoFurtherEvent : held true ∧ held false :=
  ⟨⟨by decide, by decide, by decide, by decide, by decide, by decide, by decide, by decide, rfl⟩,
   ⟨by decide, by decide, by decide, by decide, by decide, by decide, by decide, by decide, rfl⟩⟩
theorem witness_EventSurvivesItsClear :
    let s := fresh [{ ask (.wrEvPending 0#4 4#32) with evin := [4#32] }]
    let src : Source := ⟨"m0s2", .risingPulse, .inDomain, false⟩
    s.Inv ∧ s.inReset = false ∧ s.KeepsUpdates ∧ (0#4 : BitVec 4).toNat < s.cfg.numEv ∧
      (s.cfg.sources 0)[2]? = some src ∧
      sourceEvent s.cfg s.blk s.input 0 2 (s.blk.managerAt 0) src = true := by decide
theorem witness_InterruptLine :
    (let s := at_ Config.reference (m0 4#32 4#32) [Input.quiet]
     s.cfg.WF ∧ step s = .next (nx s) ∧ 0 < s.cfg.numEv ∧ s.inReset = false) ∧
    (let s := at_ Config.reference (m0 4#32 4#32) [resetIn]
     s.cfg.WF ∧ step s = .next (nx s) ∧ 0 < s.cfg.numEv ∧ s.inReset = true) :=
  ⟨⟨by decide, rfl, by decide, by decide⟩, ⟨by decide, rfl, by decide, by decide⟩⟩
theorem witness_EnableMasksOnlyTheLine :
    let s := at_ Config.reference (m0 4#32 4#32) [ask (.rdEvEnable 0#4)]; step s = .next (nx s) := rfl
/-- A handler that services source 0 of manager 0 and then enables it too, and a quiet cycle. -/
def otherSource : List Input := [ask (.wrEvPending 0#4 1#32), ask (.wrEvEnable 0#4 5#32), Input.quiet]
/-- The hypotheses on those cycles, with source 2 pending and enabled. -/
def unserviced (up : Bool) : Prop :=
  let s := calm up (m0 5#32 4#32) otherSource
  s.Inv ∧ NoWarmResetFor (2 + 1) s ∧ NoResetFor (2 + 1) s ∧ (0#4 : BitVec 4).toNat < s.cfg.numEv ∧
    2 < (s.cfg.sources 0).length ∧ (s.blk.managerAt 0).pending.getLsbD 2 = true ∧
    (s.blk.managerAt 0).enable.getLsbD 2 = true ∧
    (∀ inp ∈ s.inputs.take (2 + 1), ∀ d, (inp.req = encode (.wrEvPending 0#4 d) → d.getLsbD 2 = false) ∧
      (inp.req = encode (.wrEvEnable 0#4 d) → d.getLsbD 2 = true)) ∧
    core.run (2 + 1) s = .next (nx (nx (nx s)))
theorem otherSource_leaves_source2 : ∀ inp ∈ otherSource, ∀ d,
    (inp.req = encode (.wrEvPending 0#4 d) → d.getLsbD 2 = false) ∧
      (inp.req = encode (.wrEvEnable 0#4 d) → d.getLsbD 2 = true) := by
  intro inp h d
  simp only [otherSource, List.mem_cons, List.not_mem_nil, or_false] at h
  rcases h with rfl | rfl | rfl
  · refine ⟨fun e => ?_, fun e => absurd (Request.write.inj e).1 (by simp [Instr.offset, evOffset])⟩
    rw [← (Request.write.inj e).2.2]; decide
  · refine ⟨fun e => absurd (Request.write.inj e).1 (by simp [Instr.offset, evOffset]), fun e => ?_⟩
    rw [← (Request.write.inj e).2.2]; decide
  · exact ⟨fun e => absurd e (quiet_ne_encode _), fun e => absurd e (quiet_ne_encode _)⟩
theorem witness_UnservicedLineStaysUp : unserviced true ∧ unserviced false :=
  ⟨⟨by decide, by decide, by decide, by decide, by decide, by decide, by decide, otherSource_leaves_source2, rfl⟩,
   ⟨by decide, by decide, by decide, by decide, by decide, by decide, by decide, otherSource_leaves_source2, rfl⟩⟩
theorem witness_StalePendingRaisesTheLine :
    let s := at_ Config.reference (m0 4#32 0#32) [ask (.wrEvEnable 0#4 4#32), Input.quiet]
    s.Inv ∧ s.inReset = false ∧ s.KeepsUpdates ∧ (0#4 : BitVec 4).toNat < s.cfg.numEv ∧
      2 < (s.cfg.sources 0).length ∧ (s.blk.managerAt 0).pending.getLsbD 2 = true ∧
      (4#32 : Word).getLsbD 2 = true ∧ (nx s).inReset = false ∧ (nx s).input.req = .idle := by decide
theorem witness_PolarityWriteMakesAnEvent :
    let s := fresh [ask (.wrEvPolarity 1#4 3#32), Input.quiet]
    let src : Source := ⟨"m1s0", .selectablePolarity, .async 1, false⟩
    s.Inv ∧ s.inReset = false ∧ s.KeepsUpdates ∧ (1#4 : BitVec 4).toNat < s.cfg.numEv ∧
      (s.cfg.sources 1)[0]? = some src ∧ (s.blk.managerAt 1).polarity.getLsbD 0 = false ∧
      (3#32 : Word).getLsbD 0 = true ∧ sourceSignal s.cfg s.blk s.input 1 0 src = false ∧
      (nx s).inReset = false ∧ (nx s).KeepsUpdates ∧ (nx s).input.req = .idle ∧
      sourceSignal (nx s).cfg (nx s).blk (nx s).input 1 0 src = false := by decide
theorem witness_ChainStep :
    let s := fresh [{ Input.quiet with raw := [true] }]
    s.Inv ∧ s.inReset = false ∧ s.KeepsUpdates ∧ step s = .next (nx s) ∧
      s.blk.sync[0]? = some (SyncChain.reset 2 false) := ⟨by decide, by decide, by decide, rfl, by decide⟩
theorem witness_RawInputsReachTheChainsOnly :
    let s := fresh [Input.quiet]
    s.inReset = false ∧ step s = .next (nx s) ∧ 1 < s.cfg.numAsync ∧ s.inputs = Input.quiet :: [] :=
  ⟨by decide, rfl, by decide, rfl⟩
/-- A cycle with the raw input of chain 0 up, and the draw of its stage 0. -/
def rawUp (draw : Bool) : Input := { Input.quiet with raw := [true], draws := ⟨0#32, [draw]⟩ }
/-- The cycles of the latency witnesses, with the raw input up. -/
def raised (up : Bool) : State := calm up r0 [rawUp false, rawUp true, rawUp true]
/-- The hypotheses on the first `n` of them. -/
def latency (up : Bool) (n : Nat) (t : State) : Prop :=
  let s := raised up
  s.Inv ∧ NoWarmResetFor n s ∧ NoResetFor n s ∧ s.blk.sync[0]? = some (SyncChain.reset 2 false) ∧
    SteadyChain s.cfg.syncStages false (SyncChain.reset 2 false) ∧
    (∀ inp ∈ s.inputs.take n, inp.raw.getD 0 false = !false) ∧ core.run n s = .next t
theorem witness_SynchronizerLatency :
    latency false 1 (nx (raised false)) ∧ latency true 2 (nx (nx (raised true))) ∧
      latency false 3 (nx (nx (nx (raised false)))) :=
  ⟨⟨by decide, by decide, by decide, by decide, by decide, by decide, rfl⟩,
   ⟨by decide, by decide, by decide, by decide, by decide, by decide, rfl⟩,
   ⟨by decide, by decide, by decide, by decide, by decide, by decide, rfl⟩⟩
/-- A raw pulse of one cycle on chain 0, then three low cycles. -/
def pulse (up : Bool) : State := calm up r0 [rawUp true, Input.quiet, Input.quiet, Input.quiet]
/-- The hypotheses on the first `n` cycles of the pulse. -/
def onPulse (up : Bool) (n : Nat) (t : State) : Prop :=
  let s := pulse up
  s.Inv ∧ NoWarmResetFor n s ∧ s.inputs = rawUp true :: Input.quiet :: [Input.quiet, Input.quiet] ∧
    NoResetFor n s ∧ s.blk.sync[0]? = some (SyncChain.reset 2 false) ∧
    SteadyChain s.cfg.syncStages false (SyncChain.reset 2 false) ∧
    (rawUp true).raw.getD 0 false = !false ∧
    (∀ inp ∈ (Input.quiet :: [Input.quiet, Input.quiet]).take (n - 1), inp.raw.getD 0 false = false) ∧
    core.run n s = .next t
theorem witness_OneCyclePulse :
    onPulse false 1 (nx (pulse false)) ∧ onPulse true 2 (nx (nx (pulse true))) ∧
      onPulse false 3 (nx (nx (nx (pulse false)))) ∧ onPulse true 4 (nx (nx (nx (nx (pulse true))))) :=
  ⟨⟨by decide, by decide, rfl, by decide, by decide, by decide, by decide, by decide, rfl⟩,
   ⟨by decide, by decide, rfl, by decide, by decide, by decide, by decide, by decide, rfl⟩,
   ⟨by decide, by decide, rfl, by decide, by decide, by decide, by decide, by decide, rfl⟩,
   ⟨by decide, by decide, rfl, by decide, by decide, by decide, by decide, by decide, rfl⟩⟩
/-- Four cycles with the raw input of chain 0 up; the first clears the source next to the one behind it. -/
def risen (up : Bool) : State :=
  calm up r0 ({ rawUp false with req := encode (.wrEvPending 0#4 6#32) } :: List.replicate 3 (rawUp false))
/-- The hypotheses on the first `n` of them, for the source behind the chain. -/
def chainEvent (up : Bool) (n : Nat) (t : State) : Prop :=
  let s := risen up
  let src : Source := ⟨"m0s0", .risingPulse, .async 0, false⟩
  s.Inv ∧ NoWarmResetFor n s ∧ NoResetFor n s ∧ s.blk.sync[0]? = some (SyncChain.reset 2 false) ∧
    SteadyChain s.cfg.syncStages false (SyncChain.reset 2 false) ∧ (0#4 : BitVec 4).toNat < s.cfg.numEv ∧
    (s.cfg.sources (0#4 : BitVec 4).toNat)[0]? = some src ∧ src.policy = .risingPulse ∧ src.input = .async 0 ∧
    (s.blk.managerAt 0).prev.getLsbD 0 = false ∧ (s.blk.managerAt 0).pending.getLsbD 0 = false ∧
    (∀ inp ∈ s.inputs.take n, inp.raw.getD 0 false = true ∧
      ∀ d, inp.req = encode (.wrEvPending 0#4 d) → d.getLsbD 0 = false) ∧
    core.run n s = .next t
theorem risen_inputs (up : Bool) (n : Nat) : ∀ inp ∈ (risen up).inputs.take n,
    inp.raw.getD 0 false = true ∧ ∀ d, inp.req = encode (.wrEvPending 0#4 d) → d.getLsbD 0 = false := by
  intro inp h
  have h' : inp ∈ ({ rawUp false with req := encode (.wrEvPending 0#4 6#32) } :: List.replicate 3 (rawUp false)) := by
    cases up <;> exact List.mem_of_mem_take h
  rcases List.mem_cons.1 h' with rfl | h'
  · refine ⟨by decide, fun d e => ?_⟩
    rw [← (Request.write.inj e).2.2]; decide
  · rw [List.eq_of_mem_replicate h']; exact ⟨by decide, fun _ e => absurd e (quiet_ne_encode _)⟩
theorem witness_EventLatencyThroughTheChain :
    chainEvent false 2 (nx (nx (risen false))) ∧ chainEvent true 3 (nx (nx (nx (risen true)))) ∧
      chainEvent false 4 (nx (nx (nx (nx (risen false))))) :=
  ⟨⟨by decide, by decide, by decide, by decide, by decide, by decide, by decide, rfl, rfl, by decide, by decide,
    risen_inputs _ _, rfl⟩,
   ⟨by decide, by decide, by decide, by decide, by decide, by decide, by decide, rfl, rfl, by decide, by decide,
    risen_inputs _ _, rfl⟩,
   ⟨by decide, by decide, by decide, by decide, by decide, by decide, by decide, rfl, rfl, by decide, by decide,
    risen_inputs _ _, rfl⟩⟩
theorem witness_SetFieldChangesItsFieldOnly : 3 ≤ 4 ∧ 4 < 32 ∧ 31 < 32 := by decide

end Sys2Proof.Tests
end

