-- ==== Sys2Proof/Proofs/ResetState.lean ====
section
/-! PROOFS. The reset state `RESET` (10_state R42), part by part. -/

namespace Sys2Proof.Machine

section
variable (cfg : Config)

@[simp] theorem resetOf_blk : (State.resetOf cfg).blk = Block.reset cfg := rfl

@[simp] theorem evReset_pending (srcs : List Source) : (EvManager.reset srcs).pending = 0#32 := rfl
@[simp] theorem evReset_enable (srcs : List Source) : (EvManager.reset srcs).enable = 0#32 := rfl
@[simp] theorem evReset_polarity (srcs : List Source) : (EvManager.reset srcs).polarity = 0#32 := rfl

@[simp] theorem syncReset_aLast (stages : Nat) (init : Bool) : (SyncChain.reset stages init).aLast = init := rfl
@[simp] theorem syncReset_stages (stages : Nat) (init : Bool) :
    (SyncChain.reset stages init).stages = List.replicate stages init := rfl

/-- The all-zero manager that stands for an absent one is the reset of a manager without sources. -/
theorem evReset_nil : EvManager.reset [] = ⟨0#32, 0#32, 0#32, 0#32⟩ := rfl

/-- Holds of every `k`, since a manager the build does not have has no sources. -/
theorem managerAt_reset (k : Nat) : (Block.reset cfg).managerAt k = EvManager.reset (cfg.sources k) := by
  rw [Block.managerAt, reset_ev, ← evReset_nil, List.getD_map, Config.sources]

theorem evReset_prev_getLsbD {srcs : List Source} {i : Nat} {src : Source} (hi : i < 32)
    (h : srcs[i]? = some src) : (EvManager.reset srcs).prev.getLsbD i = src.prevInit :=
  packSources_getLsbD_of _ srcs i src hi h

theorem reset_ev_length : (Block.reset cfg).ev.length = cfg.numEv := by
  rw [reset_ev, List.length_map, Config.numEv]

theorem reset_sync_length : (Block.reset cfg).sync.length = cfg.numAsync := by
  rw [reset_sync, List.length_map, Config.numAsync]

theorem reset_sync_getElem? {c : Nat} {u : Bool} (h : cfg.syncInit[c]? = some u) :
    (Block.reset cfg).sync[c]? = some (SyncChain.reset cfg.syncStages u) := by
  rw [reset_sync, List.getElem?_map, h, Option.map_some]

end

/-- Settles O18: the scalar registers by definition, the managers and the chains as the resets of their parameters. -/
theorem resetValues : Obligations.ResetValues := by
  unfold Obligations.ResetValues
  intro cfg
  simp only [resetOf_blk]
  refine ⟨reset_power cfg, reset_rebootCtrl cfg, reset_rebootAddr cfg, reset_drpAdr cfg, reset_drpDatW cfg,
    reset_drpDatR cfg, reset_drpReady cfg, reset_drpBusy cfg, reset_ev_length cfg, reset_sync_length cfg, ?managers,
    ?chains⟩
  case managers =>
    intro k
    rw [managerAt_reset]
    exact ⟨evReset_pending _, evReset_enable _, evReset_polarity _, fun _ _ hi h => evReset_prev_getLsbD hi h⟩
  case chains =>
    intro c u h
    exact ⟨_, reset_sync_getElem? cfg h, syncReset_aLast _ u, syncReset_stages _ u⟩

end Sys2Proof.Machine
end

/-! PROOFS. The register map (20_memory R52, R56, R59, R60): what the opcode table reads from a request word, the
offsets a build maps, and the side effects of a read. -/

namespace Sys2Proof

-- The opcode table, read from a request word.

/-- A row builds a transaction of the request word it selects and, for a write, of the data beside it. -/
def OpcodeRow.Builds (row : OpcodeRow) : Prop :=
  ∀ (rq : BitVec 33) (d : Word), row.selects rq = true →
    encodeRQ (row.build (rq.extractLsb' 11 4) d) = rq ∧
      (row.build (rq.extractLsb' 11 4) d).writeData = if rq.getLsbD 32 then some d else none

theorem builds_of_fixed {row : OpcodeRow} (hm : row.mask = fixedMask)
    (h : ∀ k d, encodeRQ (row.build k d) = row.pattern ∧
      (row.build k d).writeData = if row.pattern.getLsbD 32 then some d else none) : row.Builds := by
  intro rq d hs
  obtain rfl := (selects_fixed row hm rq).mp hs
  exact h _ d

/-- The request word of a register of manager `k` is that of manager 0 with `k` in bits 14 to 11 (30_encoding R71). -/
theorem evRequest_with_manager (we : Bool) (k : BitVec 4) (w : BitVec 11) :
    requestWord we (evOffset 0#4 w) ||| (k.setWidth 33 <<< (11 : Nat)) = requestWord we (evOffset k w) := by
  unfold requestWord evOffset
  ext i hi
  simp only [BitVec.getElem_or, BitVec.getElem_append, BitVec.getElem_shiftLeft]
  grind

theorem evRequest_manager (we : Bool) (k : BitVec 4) (w : BitVec 11) :
    (requestWord we (evOffset k w)).extractLsb' 11 4 = k := by
  unfold requestWord evOffset
  ext i hi
  simp only [BitVec.getElem_extractLsb', BitVec.getLsbD_append]
  grind

theorem builds_of_ev {row : OpcodeRow} (we : Bool) (w : BitVec 11) (hm : row.mask = evMask)
    (hp : row.pattern = requestWord we (evOffset 0#4 w))
    (ho : ∀ k d, (row.build k d).offset = evOffset k w)
    (hd : ∀ k d, (row.build k d).writeData = if we then some d else none) : row.Builds := by
  intro rq d hs
  have hrq : rq = requestWord we (evOffset (rq.extractLsb' 11 4) w) := by
    rw [← evRequest_with_manager, ← hp]
    exact evMask_rebuild rq row.pattern (by simpa [OpcodeRow.selects, hm] using hs)
  have hwe : rq.getLsbD 32 = we := by rw [hrq]; exact (requestWord_parts _ _).2
  refine ⟨?_, by rw [hd, hwe]⟩
  rw [encodeRQ, ho, hd]
  cases we <;> exact hrq.symm

theorem fixedRows_build : ∀ row ∈ fixedRows, row.Builds := by
  simp only [fixedRows, List.forall_mem_cons]
  refine ⟨?_, ?_, ?_, ?_, ?_, ?_, ?_, ?_, ?_, ?_, ?_, ?_, ?_, ?_, ?_, ?_, ?_, ?_, by simp⟩ <;>
    exact builds_of_fixed rfl fun _ _ => by simp [encodeRQ, requestWord, Instr.writeData, Instr.offset]

theorem evRows_build : ∀ row ∈ evRows, row.Builds := by
  simp only [evRows, List.forall_mem_cons]
  refine ⟨?_, ?_, ?_, ?_, ?_, ?_, by simp⟩
  · exact builds_of_ev false 0#11 rfl (by decide) (fun _ _ => rfl) fun _ _ => rfl
  · exact builds_of_ev true 0#11 rfl (by decide) (fun _ _ => rfl) fun _ _ => rfl
  · exact builds_of_ev false 4#11 rfl (by decide) (fun _ _ => rfl) fun _ _ => rfl
  · exact builds_of_ev true 4#11 rfl (by decide) (fun _ _ => rfl) fun _ _ => rfl
  · exact builds_of_ev false 8#11 rfl (by decide) (fun _ _ => rfl) fun _ _ => rfl
  · exact builds_of_ev true 8#11 rfl (by decide) (fun _ _ => rfl) fun _ _ => rfl

theorem opcodeTable_builds {row : OpcodeRow} (h : row ∈ opcodeTable) : row.Builds :=
  (List.mem_append.mp h).elim (fixedRows_build row) (evRows_build row)

/-- What the table reads from a request word is a transaction of that word and its data. -/
theorem decodeRQ_sound {we : Bool} {a d : Word} {i : Instr} (h : decodeRQ (requestWord we a) d = some i) :
    i.offset = a ∧ i.writeData = if we then some d else none := by
  obtain ⟨row, hrow, rfl⟩ := Option.map_eq_some_iff.mp h
  have hsel : row.selects (requestWord we a) = true := by simpa using List.find?_some hrow
  obtain ⟨hrq, hd⟩ := opcodeTable_builds (List.mem_of_find?_eq_some hrow) _ d hsel
  rw [(requestWord_parts we a).2] at hd
  exact ⟨(requestWord_inj _ _ _ _ hrq).2, hd⟩

theorem decodeRQ_of_findIdx {rq : BitVec 33} {row : OpcodeRow} (n : Nat) (h : opcodeTable[n]? = some row)
    (hn : (opcodeTable.map fun r => r.selects rq).findIdx id = n) (d : Word) :
    decodeRQ rq d = some (row.build (rq.extractLsb' 11 4) d) := by
  rw [decodeRQ, find?_of_findIdx _ n row h hn, Option.map_some]

/-- The event-manager rows begin at position 18, a read and a write row for each of the three registers. -/
theorem evRequest_findIdx : ∀ (we : Bool) (k : BitVec 4) (j : Fin 3),
    (opcodeTable.map fun r => r.selects (requestWord we (evOffset k (BitVec.ofNat 11 (4 * j))))).findIdx id
        = 18 + 2 * j + we.toNat := by
  decide

theorem decodeRQ_evRequest (we : Bool) (j : Fin 3) (k : BitVec 4) (d : Word) {row : OpcodeRow}
    (h : opcodeTable[18 + 2 * j + we.toNat]? = some row) :
    decodeRQ (requestWord we (evOffset k (BitVec.ofNat 11 (4 * j)))) d = some (row.build k d) := by
  rw [decodeRQ_of_findIdx _ h (evRequest_findIdx we k j), evRequest_manager]

/-- The table reads every transaction from its own request word. -/
theorem decodeRQ_encodeRQ {i : Instr} {d : Word} (h : ∀ d', i.writeData = some d' → d' = d) :
    decodeRQ (encodeRQ i) d = some i := by
  cases i with
  | rdEvPending k => exact decodeRQ_evRequest false 0 k d rfl
  | wrEvPending k d' => rw [h d' rfl]; exact decodeRQ_evRequest true 0 k d rfl
  | rdEvEnable k => exact decodeRQ_evRequest false 1 k d rfl
  | wrEvEnable k d' => rw [h d' rfl]; exact decodeRQ_evRequest true 1 k d rfl
  | rdEvPolarity k => exact decodeRQ_evRequest false 2 k d rfl
  | wrEvPolarity k d' => rw [h d' rfl]; exact decodeRQ_evRequest true 2 k d rfl
  | _ =>
    simp_all [decodeRQ, opcodeTable, fixedRows, OpcodeRow.selects, fixedMask, encodeRQ, requestWord, Instr.offset,
      Instr.writeData]

/-- The table reads from a request word exactly the transaction of its offset, direction and data. -/
theorem decodeRQ_eq_some_iff {we : Bool} {a d : Word} {i : Instr} :
    decodeRQ (requestWord we a) d = some i ↔ i.offset = a ∧ i.writeData = if we then some d else none := by
  refine ⟨decodeRQ_sound, ?_⟩
  rintro ⟨rfl, hd⟩
  have hrq : requestWord we i.offset = encodeRQ i := by cases we <;> simp [encodeRQ, hd]
  rw [hrq]
  exact decodeRQ_encodeRQ (by cases we <;> simp [hd])

-- Accesses of the one size.

theorem offset_aligned (i : Instr) : i.offset.extractLsb' 0 2 = 0#2 := by
  cases i with
  | rdEvPending k | wrEvPending k d => exact (Laws.Aligned.pending_aligned k).1
  | rdEvEnable k | wrEvEnable k d => exact (Laws.Aligned.enable_aligned k).1
  | rdEvPolarity k | wrEvPolarity k d => exact (Laws.Aligned.polarity_aligned k).1
  | _ => simp [Instr.offset]

theorem decodeAccess_badWidth (cfg : Config) (we : Bool) (a : Word) {size : Nat} (d : Word)
    (h : size ≠ accessBytes) : decodeAccess cfg we a size d = .rejected .badWidth :=
  if_pos h

/-- Everything decode can answer to an access of the one size. -/
theorem decodeAccess_cases (cfg : Config) (we : Bool) (a d : Word) :
    (∃ i, decodeRQ (requestWord we a) d = some i ∧ i.wellFormed cfg = true ∧
        decodeAccess cfg we a accessBytes d = .transaction i) ∨
      decodeAccess cfg we a accessBytes d = .rejected .unmapped := by
  unfold decodeAccess
  rw [if_neg (by simp)]
  split
  · exact .inr rfl
  · split
    · split
      · exact .inl ⟨_, ‹_›, ‹_›, rfl⟩
      · exact .inr rfl
    · exact .inr rfl

/-- An access of the one size is the transaction of its offset, direction and data, in a build that has it. -/
theorem decodeAccess_eq_transaction_iff {cfg : Config} {we : Bool} {a d : Word} {i : Instr} :
    decodeAccess cfg we a accessBytes d = .transaction i ↔
      i.offset = a ∧ (i.writeData = if we then some d else none) ∧ i.wellFormed cfg = true := by
  rw [← and_assoc, ← decodeRQ_eq_some_iff]
  constructor
  · intro h
    rcases decodeAccess_cases cfg we a d with ⟨j, hrq, hw, hj⟩ | hj
    · obtain rfl : j = i := by simpa [hj] using h
      exact ⟨hrq, hw⟩
    · simp [hj] at h
  · rintro ⟨hrq, hw⟩
    have ha : a.extractLsb' 0 2 = 0#2 := (decodeRQ_sound hrq).1 ▸ offset_aligned i
    simp [decodeAccess, ha, hrq, hw]

end Sys2Proof

namespace Sys2Proof.Machine

-- Registers and the transactions that name them.

@[simp] theorem readInstr_writeData (r : RegRef) : r.readInstr.writeData = none := by cases r <;> rfl
@[simp] theorem writeInstr_writeData (r : RegRef) (d : Word) : (r.writeInstr d).writeData = some d := by
  cases r <;> rfl
@[simp] theorem writeInstr_offset (r : RegRef) (d : Word) : (r.writeInstr d).offset = r.readInstr.offset := by
  cases r <;> rfl

theorem exists_readInstr_of_isRead {i : Instr} (h : IsRead i) : ∃ r : RegRef, i = r.readInstr := by
  cases i with
  | rdPower => exact ⟨.power, rfl⟩
  | rdRebootCtrl => exact ⟨.rebootCtrl, rfl⟩
  | rdRebootAddr => exact ⟨.rebootAddr, rfl⟩
  | rdDrpAdr => exact ⟨.drpAdr, rfl⟩
  | rdDrpDatW => exact ⟨.drpDatW, rfl⟩
  | rdDrpDatR => exact ⟨.drpDatR, rfl⟩
  | rdDrpReady => exact ⟨.drpReady, rfl⟩
  | rdDrpRead => exact ⟨.drpRead, rfl⟩
  | rdDrpWrite => exact ⟨.drpWrite, rfl⟩
  | rdEvPending k => exact ⟨.evPending k, rfl⟩
  | rdEvEnable k => exact ⟨.evEnable k, rfl⟩
  | rdEvPolarity k => exact ⟨.evPolarity k, rfl⟩
  | _ => cases h

-- The map of a build.

/-- A transaction of the build names an offset of its map. -/
theorem mapped_offset {cfg : Config} {i : Instr} (h : i.wellFormed cfg = true) : Mapped cfg i.offset := by
  cases i with
  | rdEvPending k | wrEvPending k d =>
    exact .inr ⟨k.toNat, by simpa [Instr.wellFormed, Config.hasManager] using h, .inl (evOffset_eq k).1⟩
  | rdEvEnable k | wrEvEnable k d =>
    exact .inr ⟨k.toNat, by simpa [Instr.wellFormed, Config.hasManager] using h, .inr (.inl (evOffset_eq k).2.1)⟩
  | rdEvPolarity k | wrEvPolarity k d =>
    simp only [Instr.wellFormed, Config.hasPolarity, Config.hasManager, Bool.and_eq_true, decide_eq_true_eq] at h
    exact .inr ⟨k.toNat, h.1, .inr (.inr ⟨h.2, (evOffset_eq k).2.2⟩)⟩
  | _ => exact .inl (by simp [Instr.offset])

/-- A mapped offset names a register of the build (20_memory R60). -/
theorem exists_register_of_mapped {cfg : Config} {a : Word} (hwf : cfg.WF) (h : Mapped cfg a) :
    ∃ r : RegRef, r.readInstr.offset = a ∧ r.readInstr.wellFormed cfg = true := by
  rcases h with h | ⟨k, hk, h⟩
  · simp only [List.mem_cons, List.not_mem_nil, or_false] at h
    rcases h with rfl | rfl | rfl | rfl | rfl | rfl | rfl | rfl | rfl
    · exact ⟨.power, rfl, rfl⟩
    · exact ⟨.rebootCtrl, rfl, rfl⟩
    · exact ⟨.rebootAddr, rfl, rfl⟩
    · exact ⟨.drpAdr, rfl, rfl⟩
    · exact ⟨.drpDatW, rfl, rfl⟩
    · exact ⟨.drpDatR, rfl, rfl⟩
    · exact ⟨.drpReady, rfl, rfl⟩
    · exact ⟨.drpRead, rfl, rfl⟩
    · exact ⟨.drpWrite, rfl, rfl⟩
  · obtain ⟨-, hnum, -⟩ := hwf
    have hk4 : (BitVec.ofNat 4 k).toNat = k := Nat.mod_eq_of_lt (by omega)
    have hman : cfg.hasManager (BitVec.ofNat 4 k) = true := by simp [Config.hasManager, hk4, hk]
    obtain ⟨hp, he, hl⟩ := evOffset_eq (BitVec.ofNat 4 k)
    rw [hk4] at hp he hl
    rcases h with rfl | rfl | ⟨hpol, rfl⟩
    · exact ⟨.evPending (BitVec.ofNat 4 k), hp, hman⟩
    · exact ⟨.evEnable (BitVec.ofNat 4 k), he, hman⟩
    · exact ⟨.evPolarity (BitVec.ofNat 4 k), hl, by
        simp [RegRef.readInstr, Instr.wellFormed, Config.hasPolarity, hman, hk4, hpol]⟩

theorem decodeAccess_of_not_mapped {cfg : Config} {a : Word} (h : ¬ Mapped cfg a) (we : Bool) (d : Word) :
    decodeAccess cfg we a accessBytes d = .rejected .unmapped := by
  refine (decodeAccess_cases cfg we a d).resolve_left ?_
  rintro ⟨i, -, -, hi⟩
  obtain ⟨rfl, -, hw⟩ := decodeAccess_eq_transaction_iff.mp hi
  exact h (mapped_offset hw)

theorem decodeAccess_of_mapped {cfg : Config} {a : Word} (hwf : cfg.WF) (h : Mapped cfg a) (we : Bool) (d : Word) :
    ∃ i, decodeAccess cfg we a accessBytes d = .transaction i := by
  obtain ⟨r, hr, hw⟩ := exists_register_of_mapped hwf h
  cases we
  · exact ⟨r.readInstr, decodeAccess_eq_transaction_iff.mpr ⟨hr, by simp, hw⟩⟩
  · exact ⟨r.writeInstr d, decodeAccess_eq_transaction_iff.mpr ⟨by simpa using hr, by simp, by
      rwa [readInstr_wellFormed]⟩⟩

/-- Two accesses that decode to one transaction are of one offset (20_memory R60). -/
theorem offset_unique_of_decodeAccess {cfg : Config} {we we' : Bool} {a a' d d' : Word} {i : Instr}
    (h : decodeAccess cfg we a accessBytes d = .transaction i)
    (h' : decodeAccess cfg we' a' accessBytes d' = .transaction i) : a = a' := by
  obtain ⟨rfl, -⟩ := decodeAccess_eq_transaction_iff.mp h
  exact (decodeAccess_eq_transaction_iff.mp h').1

theorem step_of_access_rejected {s : State} {a : Word} {size : Nat} {why : DecodeFault} (hr : s.inReset = false)
    (h : ∀ we d, decodeAccess s.cfg we a size d = .rejected why) (d : Word) :
    (s.input.req = .read a size → step s = .fault (decodeFault (.read a size) why)) ∧
      (s.input.req = .write a size d → step s = .fault (decodeFault (.write a size d) why)) := by
  constructor
  · intro hq
    rw [step_of_rejected hr (by rw [hq]; exact h false 0#32), hq]
  · intro hq
    rw [step_of_rejected hr (by rw [hq]; exact h true d), hq]

-- The statements.

/-- Settles O6: decode tests the size first. -/
theorem otherSizesAreBadWidth : Obligations.OtherSizesAreBadWidth := by
  unfold Obligations.OtherSizesAreBadWidth
  intro s a d size hr hsize
  exact step_of_access_rejected (why := .badWidth) hr (fun we d' => decodeAccess_badWidth s.cfg we a d' hsize) d

/-- Settles O15: a read is the read of one register, and its bus action has read data only. -/
theorem readsHaveNoSideEffects : Obligations.ReadsHaveNoSideEffects := by
  unfold Obligations.ReadsHaveNoSideEffects
  intro s i hr hi hw
  obtain ⟨r, rfl⟩ := exists_readInstr_of_isRead hi
  exact ⟨_, exec_of_read hr hw (readInstr_action s r)⟩

/-- Settles O5: the map is the set of offsets of the build's transactions, and a transaction has one offset. -/
theorem offsetsOfTheMap : Obligations.OffsetsOfTheMap := by
  unfold Obligations.OffsetsOfTheMap
  refine ⟨?unmapped, ?mapped, ?unique⟩
  case unmapped =>
    intro s a d hr hm
    exact step_of_access_rejected (why := .unmapped) hr (decodeAccess_of_not_mapped hm) d
  case mapped =>
    intro cfg a d hwf hm
    exact ⟨decodeAccess_of_mapped hwf hm false 0#32, decodeAccess_of_mapped hwf hm true d⟩
  case unique =>
    intro cfg a a' d d' i
    exact ⟨offset_unique_of_decodeAccess, offset_unique_of_decodeAccess⟩

end Sys2Proof.Machine

/-! PROOFS. No request word selects two rows of the opcode table (30_encoding R73): a selected row's bit `a[15]` is
the word's own, it tells the block of the row and so its mask, and under one mask the patterns differ. -/

namespace Sys2Proof

theorem fixedRows_mask_and_bit15 : ∀ r ∈ fixedRows, r.mask = fixedMask ∧ r.pattern.getLsbD 15 = false := by decide

theorem evRows_mask_and_bit15 : ∀ r ∈ evRows, r.mask = evMask ∧ r.pattern.getLsbD 15 = true := by decide

theorem fixedMask_eq_allOnes : fixedMask = BitVec.allOnes 33 := by decide

theorem evMask_getLsbD : ∀ b < 33, evMask.getLsbD b = !(decide (11 ≤ b) && decide (b ≤ 14)) := by decide

theorem mask_of_bit15 {r : OpcodeRow} (h : r ∈ opcodeTable) :
    r.mask = if r.pattern.getLsbD 15 then evMask else fixedMask := by
  rcases List.mem_append.mp h with hf | he
  · obtain ⟨hm, hb⟩ := fixedRows_mask_and_bit15 r hf
    rw [hm, hb, if_neg Bool.false_ne_true]
  · obtain ⟨hm, hb⟩ := evRows_mask_and_bit15 r he
    rw [hm, hb, if_pos rfl]

theorem selects_iff (r : OpcodeRow) (rq : BitVec 33) : r.selects rq = true ↔ rq &&& r.mask = r.pattern := beq_iff_eq

/-- Both masks keep bit 15, so a row has bit 15 of every word it selects. -/
theorem bit15_of_selects {r : OpcodeRow} {rq : BitVec 33} (h : r ∈ opcodeTable) (hs : r.selects rq = true) :
    r.pattern.getLsbD 15 = rq.getLsbD 15 := by
  have hmask : r.mask.getLsbD 15 = true := by
    rw [mask_of_bit15 h]
    split
    · exact evMask_getLsbD 15 (by decide)
    · rw [fixedMask_eq_allOnes]; simp
  rw [← (selects_iff r rq).mp hs, BitVec.getLsbD_and, hmask, Bool.and_true]

theorem pattern_eq_of_selects_both {r r' : OpcodeRow} {rq : BitVec 33} (h : r ∈ opcodeTable) (h' : r' ∈ opcodeTable)
    (hs : r.selects rq = true) (hs' : r'.selects rq = true) : r.pattern = r'.pattern := by
  have hmask : r.mask = r'.mask := by
    rw [mask_of_bit15 h, mask_of_bit15 h', bit15_of_selects h hs, bit15_of_selects h' hs']
  rw [← (selects_iff r rq).mp hs, ← (selects_iff r' rq).mp hs', hmask]

theorem opcodeTable_patterns_nodup : (opcodeTable.map OpcodeRow.pattern).Nodup := by decide

theorem position_unique_of_pattern {i j : Nat} {r r' : OpcodeRow} (hi : opcodeTable[i]? = some r)
    (hj : opcodeTable[j]? = some r') (hp : r.pattern = r'.pattern) : i = j := by
  obtain ⟨hlt, -⟩ := List.getElem?_eq_some_iff.mp hi
  refine (List.getElem?_inj (by rwa [List.length_map]) opcodeTable_patterns_nodup).mp ?_
  rw [List.getElem?_map, List.getElem?_map, hi, hj, Option.map_some, Option.map_some, hp]

/-- Settles O3: two rows that select one word have one mask, so one pattern, so one position. -/
theorem opcodeRowsDoNotOverlap : Obligations.OpcodeRowsDoNotOverlap := by
  unfold Obligations.OpcodeRowsDoNotOverlap
  refine ⟨?unique, ?fixed, ?events⟩
  case unique =>
    intro rq i j r r' hi hj hs hs'
    exact position_unique_of_pattern hi hj
      (pattern_eq_of_selects_both (List.mem_of_getElem? hi) (List.mem_of_getElem? hj) hs hs')
  case fixed =>
    intro r hr
    obtain ⟨hm, hb⟩ := fixedRows_mask_and_bit15 r hr
    exact ⟨hm.trans fixedMask_eq_allOnes, hb⟩
  case events =>
    intro r hr
    obtain ⟨hm, hb⟩ := evRows_mask_and_bit15 r hr
    exact ⟨hb, hm ▸ evMask_getLsbD⟩

end Sys2Proof

/-! PROOFS. What a read returns in the cycle after a write of the same register (40_register_bus R107), by access
mode: a store is read back within its mask, a strobe register holds nothing, and a write of a read-only register is
an idle cycle. -/

namespace Sys2Proof.Machine

@[simp] theorem readCycle_rdata (s : State) (v : Word) : (readCycle s v).out.rdata = v := rfl

theorem exec_readInstr {s : State} {r : RegRef} (hr : s.inReset = false) (hw : r.readInstr.wellFormed s.cfg = true) :
    exec r.readInstr s = .next (readCycle s (r.get s.cfg s.blk)) :=
  exec_of_read hr hw (readInstr_action s r)

/-- A manager's ENABLE and POLARITY exist only where the manager does (30_encoding R72). -/
theorem manager_lt_of_wellFormed {cfg : Config} {r : RegRef} {k : BitVec 4} (hr : r = .evEnable k ∨ r = .evPolarity k)
    (hw : r.readInstr.wellFormed cfg = true) : k.toNat < cfg.numEv := by
  rcases hr with rfl | rfl
  · exact of_decide_eq_true hw
  · obtain ⟨hman, -⟩ := Bool.and_eq_true_iff.mp hw
    exact of_decide_eq_true hman

/-- 40_register_bus R101, with R198: the store stands where no warm reboot undoes the cycle's updates. -/
theorem get_after_store {s : State} {r : RegRef} (d : Word) (hi : s.Inv) (hk : s.KeepsUpdates) (hr : r.mode = .rw)
    (hw : r.readInstr.wellFormed s.cfg = true) :
    r.get s.cfg (busCycle (actionOf s (r.writeInstr d)) s).blk = d &&& r.writeMask s.cfg := by
  obtain ⟨-, hev, -⟩ := hi
  rw [busCycle_blk_keeps hk, writeInstr_action s r d hr, store_some rfl, strobe_none]
  refine put_get_self r d hr fun k hrk => ?_
  rw [hardware_ev, evNext_length, hev]
  exact manager_lt_of_wellFormed hrk hw

/-- A strobe register holds nothing (40_register_bus R103). -/
theorem get_of_woStrobe {r : RegRef} (cfg : Config) (b : Block) (hr : r.mode = .woStrobe) : r.get cfg b = 0#32 := by
  cases r with
  | drpRead | drpWrite => rfl
  | _ => cases hr

/-- A write of a read-only register is accepted without effect (40_register_bus R102). -/
theorem writeInstr_action_of_ro {r : RegRef} (s : State) (d : Word) (hr : r.mode = .ro) :
    actionOf s (r.writeInstr d) = {} := by
  cases r with
  | drpDatR | drpReady => rfl
  | _ => cases hr

/-- Settles O17: the read returns what the register holds after the write's cycle, and the access mode says what
that is. -/
theorem writeThenRead : Obligations.WriteThenRead := by
  unfold Obligations.WriteThenRead
  intro s t r d hi hs hk ht hw hwrite
  obtain ⟨-, -, rfl⟩ := exec_next hs hwrite
  refine ⟨_, exec_readInstr ht hw, ?rw, ?strobe, ?ro⟩
  case rw =>
    intro hr
    exact get_after_store d hi hk hr hw
  case strobe =>
    intro hr
    exact get_of_woStrobe _ _ hr
  case ro =>
    intro hr
    rw [readCycle_rdata, writeInstr_action_of_ro s d hr, busCycle_cfg, idleCycle]

end Sys2Proof.Machine

/-! PROOFS. The event managers over one step, whatever its request: the pending bit and the edge history of a source
(41_event_manager R122 to R127), and the interrupt line (R128). -/

namespace Sys2Proof.Machine

-- The status registers of a manager after a step.

/-- A manager's status after a non-reset step: the clear of its one equation is the data of the step's request. -/
theorem step_managerAt_status {s t : State} {k : Nat} (hi : s.Inv) (hr : s.inReset = false)
    (hs : s.KeepsUpdates ∨ s.SmallScope) (h : step s = .next t) (hk : k < s.cfg.numEv) :
    (t.blk.managerAt k).pending = ((s.blk.managerAt k).next s.cfg s.blk s.input (clearData s k) k).pending ∧
      (t.blk.managerAt k).prev = ((s.blk.managerAt k).next s.cfg s.blk s.input (clearData s k) k).prev := by
  obtain ⟨a, rfl, hclear, -⟩ := step_action hr h
  obtain ⟨hm, -⟩ := busCycle_parts hs a k
  rw [hm, ← hclear k]
  exact updates_managerAt_status hi hk a

section
variable {s t : State} {k i : Nat} {src : Source}

theorem step_pending_getLsbD (hi : s.Inv) (hr : s.inReset = false) (hs : s.KeepsUpdates ∨ s.SmallScope)
    (h : step s = .next t) (hk : k < s.cfg.numEv) (hsrc : (s.cfg.sources k)[i]? = some src) :
    (t.blk.managerAt k).pending.getLsbD i = (sourceEvent s.cfg s.blk s.input k i (s.blk.managerAt k) src ||
      ((s.blk.managerAt k).pending.getLsbD i && !(clearData s k).getLsbD i)) := by
  rw [(step_managerAt_status hi hr hs h hk).1]
  exact managerNext_pending _ _ _ _ k i _ src (source_index_lt hi.1 hsrc) hsrc

theorem step_prev_getLsbD (hi : s.Inv) (hr : s.inReset = false) (hs : s.KeepsUpdates ∨ s.SmallScope)
    (h : step s = .next t) (hk : k < s.cfg.numEv) (hsrc : (s.cfg.sources k)[i]? = some src) :
    (t.blk.managerAt k).prev.getLsbD i = sourceInput s.cfg s.blk s.input k i (s.blk.managerAt k) src := by
  rw [(step_managerAt_status hi hr hs h hk).2]
  exact managerNext_prev _ _ _ _ k i _ src (source_index_lt hi.1 hsrc) hsrc

end

/-- A channel the block does not have reads as 0. -/
theorem syncOut_eq (cfg : Config) (b : Block) (c : Nat) :
    b.syncOut cfg c = ((b.sync[c]?.map fun ch => ch.stages.getD (cfg.syncStages - 1) false).getD false) := by
  unfold Block.syncOut
  cases b.sync[c]? with
  | none => rfl
  | some ch => rfl

-- The interrupt line.

/-- 41_event_manager R128, by sources: `M_k` keeps of the two registers the bits that have a source. -/
theorem irq_eq_true_iff (cfg : Config) (k : Nat) (m : EvManager) :
    m.irq cfg k = true ↔
      ∃ i < (cfg.sources k).length, m.pending.getLsbD i = true ∧ m.enable.getLsbD i = true := by
  have hbit (i : Nat) : (m.pending &&& m.enable &&& sourceMask (cfg.sources k)).getLsbD i = true ↔
      i < (cfg.sources k).length ∧ m.pending.getLsbD i = true ∧ m.enable.getLsbD i = true := by
    have hlt : m.pending.getLsbD i = true → i < 32 := BitVec.lt_of_getLsbD
    simp only [BitVec.getLsbD_and, sourceMask_getLsbD, Bool.and_eq_true, decide_eq_true_eq]
    tauto
  rw [EvManager.irq, bne_iff_ne]
  constructor
  · intro hne
    by_contra hno
    refine hne (BitVec.eq_of_getLsbD_eq fun i _ => ?_)
    rw [BitVec.getLsbD_zero, Bool.eq_false_iff]
    exact fun hi => hno ⟨i, (hbit i).mp hi⟩
  · rintro ⟨i, hi⟩ hzero
    have hset := (hbit i).mpr hi
    rw [hzero, BitVec.getLsbD_zero] at hset
    exact Bool.false_ne_true hset

theorem step_irq {s t : State} {k : Nat} (hr : s.inReset = false) (h : step s = .next t) (hk : k < s.cfg.numEv) :
    t.out.irq.getD k false = (s.blk.managerAt k).irq s.cfg k := by
  obtain ⟨a, rfl⟩ := step_busCycle hr h
  rw [busCycle_out, outputs_irq, irqLines_getD _ _ _ hk]

/-- A reset cycle shows the lines of `RESET` (70_reset_and_hazards R252), where no bit is pending. -/
theorem resetCycle_irq (s : State) {k : Nat} (hk : k < s.cfg.numEv) :
    (resetCycle s).out.irq.getD k false = false := by
  rw [resetCycle_out, outputs_irq, irqLines_getD _ _ _ hk, managerAt_reset, EvManager.irq, evReset_pending]
  simp

-- The statements.

/-- Settles O46: the written-out signal, detector input and event are the model's, by kind and by policy of the
source, and a step latches those. -/
theorem pendingLatchAndEdgeHistory : Obligations.PendingLatchAndEdgeHistory := by
  unfold Obligations.PendingLatchAndEdgeHistory
  intro s t k i src hi hr hkeep hstep hk hsrc m sig v ev
  have hsig : sig = sourceSignal s.cfg s.blk s.input k i src := by
    simp only [sig, sourceSignal]
    cases src.input with
    | async c => exact (syncOut_eq s.cfg s.blk c).symm
    | inDomain => rfl
  have hv : v = sourceInput s.cfg s.blk s.input k i m src := by
    rw [sourceInput, ← hsig]
    simp only [v]
    cases src.policy <;> rfl
  have hev : ev = sourceEvent s.cfg s.blk s.input k i m src := by
    rw [sourceEvent, ← hv]
    simp only [ev]
    cases src.policy <;> rfl
  rw [hev, hv]
  exact ⟨step_pending_getLsbD hi hr (.inl hkeep) hstep hk hsrc, step_prev_getLsbD hi hr (.inl hkeep) hstep hk hsrc⟩

/-- Settles O50: outside reset the line is the manager's own, and a reset cycle shows that of `RESET`. -/
theorem interruptLine : Obligations.InterruptLine := by
  unfold Obligations.InterruptLine
  intro s t k _ hstep hk
  refine ⟨?running, ?reset⟩
  case running =>
    intro hr
    rw [step_irq hr hstep hk]
    exact irq_eq_true_iff s.cfg k _
  case reset =>
    intro hr
    rw [step_of_inReset hr] at hstep
    cases hstep
    exact resetCycle_irq s hk

end Sys2Proof.Machine

/-! PROOFS. The synchronizer chains: one cycle of a chain, over a step and over a run of listed cycles
(42_synchronizer R152), the latency of a change (R154), and that a raw input reaches the rest of the block through a
chain only (R153). -/

namespace Sys2Proof.Machine

-- A chain over a step and over a run.

/-- A chain of `n` stages of channel `c` after a cycle with input `inp` (42_synchronizer R152). -/
def SyncChain.cycle (n c : Nat) (ch : SyncChain) (inp : Input) : SyncChain :=
  ch.next n (inp.raw.getD c false) (inp.draws.stage0.getD c false)

theorem step_cfg {s t : State} (h : step s = .next t) : t.cfg = s.cfg := by
  rcases step_cases h with ⟨_, rfl⟩ | ⟨_, _, rfl⟩ | ⟨_, _, _, _, _, rfl⟩ <;> rfl

theorem step_inputs {s t : State} (h : step s = .next t) : t.inputs = s.inputs.tail := by
  rcases step_cases h with ⟨_, rfl⟩ | ⟨_, _, rfl⟩ | ⟨_, _, _, _, _, rfl⟩ <;> rfl

/-- Neither a strobe nor a store touches the chains, so the step leaves them as the hardware makes them. -/
theorem step_sync_getElem? {s t : State} (hr : s.inReset = false) (hs : s.KeepsUpdates ∨ s.SmallScope)
    (h : step s = .next t) (c : Nat) :
    t.blk.sync[c]? = s.blk.sync[c]?.map (SyncChain.cycle s.cfg.syncStages c · s.input) := by
  obtain ⟨a, rfl⟩ := step_busCycle hr h
  obtain ⟨-, hsync⟩ := busCycle_parts hs a 0
  rw [hsync, store_sync, strobe_sync, hardware_sync, syncNext_getElem?]
  rfl

/-- A run over listed cycles folds the inputs of channel `c` into its chain. -/
theorem run_sync_getElem? {n : Nat} {s t : State} {c : Nat} {ch : SyncChain} (hw : NoWarmResetFor n s)
    (hn : NoResetFor n s) (hch : s.blk.sync[c]? = some ch) (hrun : core.run n s = .next t) :
    t.blk.sync[c]? = some ((s.inputs.take n).foldl (SyncChain.cycle s.cfg.syncStages c) ch) := by
  induction n generalizing s ch with
  | zero =>
    rw [run_zero] at hrun
    subst hrun
    exact hch
  | succ n ih =>
    obtain ⟨hr, inp, rest, hinputs, hinput⟩ := noResetFor_head hn
    obtain ⟨m, hstep, hrest⟩ := run_succ.mp hrun
    have hm : m.blk.sync[c]? = some (ch.cycle s.cfg.syncStages c inp) := by
      rw [step_sync_getElem? hr (noWarmResetFor_head hw) hstep, hch, hinput]
      rfl
    have hin := step_inputs hstep
    rw [ih (noWarmResetFor_tail hn hw hstep) (noResetFor_tail hn hin) hm hrest, step_cfg hstep, hin, hinputs]
    rfl

-- A change on its way through a chain.

/-- A chain of `n` stages that held `u`, `m + 1` cycles after the raw input left `u`: the first of these cycles put
its draw `v` into the chain, and the `m` cycles after it put the new value behind it. -/
def SyncChain.changed (n : Nat) (u v : Bool) (m : Nat) : SyncChain where
  stages := (List.replicate m (!u) ++ v :: List.replicate n u).take n
  aLast := !u

section
variable {n c m : Nat} {u v : Bool}

/-- The first cycle of a change: the old and the new raw value differ, so the draw decides. -/
theorem reset_cycle_changed {inp : Input} (h : inp.raw.getD c false = !u) :
    (SyncChain.reset n u).cycle n c inp =
      SyncChain.changed n u (if inp.draws.stage0.getD c false then !u else u) 0 := by
  rw [SyncChain.cycle, SyncChain.next, h, sampleRaw_eq]
  rfl

/-- Later cycles of a change: the raw value is steady again, so no draw matters. -/
theorem changed_cycle {inp : Input} (h : inp.raw.getD c false = !u) :
    (SyncChain.changed n u v m).cycle n c inp = SyncChain.changed n u v (m + 1) := by
  have hstage : sampleRaw (inp.draws.stage0.getD c false) (!u) (!u) = !u := by rw [sampleRaw_eq, ite_self]
  simp only [SyncChain.cycle, SyncChain.next, SyncChain.changed, h, hstage, SyncChain.mk.injEq, and_true]
  cases n with
  | zero => rfl
  | succ n => simp [List.replicate_succ, List.take_take]

theorem changed_foldl_cycle {l : List Input} (h : ∀ inp ∈ l, inp.raw.getD c false = !u) :
    l.foldl (SyncChain.cycle n c) (SyncChain.changed n u v m) = SyncChain.changed n u v (m + l.length) := by
  induction l generalizing m with
  | nil => rfl
  | cons inp l ih =>
    obtain ⟨hinp, hl⟩ := List.forall_mem_cons.mp h
    rw [List.foldl_cons, changed_cycle hinp, ih hl, List.length_cons]
    congr 1
    omega

/-- The last stage of such a chain: the new value, the draw, and the old value arrive in this order from behind. -/
theorem changed_lastStage (hn : 0 < n) :
    (SyncChain.changed n u v m).stages.getD (n - 1) false =
      if m + 1 < n then u else if m + 1 = n then v else !u := by
  rw [SyncChain.changed, List.getD_eq_getElem?_getD, List.getElem?_take_of_lt (by omega)]
  rcases Nat.lt_trichotomy (m + 1) n with hlt | rfl | hgt
  · obtain ⟨j, rfl⟩ : ∃ j, n = m + (j + 1) + 1 := ⟨n - (m + 2), by omega⟩
    have hj : j < m + (j + 1) + 1 := by omega
    rw [if_pos hlt, List.getElem?_append_right (by simp)]
    simp [hj]
  · simp
  · have hnm : n - 1 < m := by omega
    rw [if_neg (by omega), if_neg (by omega), List.getElem?_append_left (by simpa using hnm)]
    simp [hnm]

end

theorem syncOut_of_chain {cfg : Config} {b : Block} {c : Nat} {ch : SyncChain} (h : b.sync[c]? = some ch) :
    b.syncOut cfg c = ch.stages.getD (cfg.syncStages - 1) false := by
  rw [syncOut_eq, h]
  rfl

-- Two cycles that differ in the raw inputs.

section
variable (cfg : Config) (b b' : Block) (chains : List SyncChain)

theorem strobe_withSync (st : Strobe) : { b with sync := chains }.strobe st = { b.strobe st with sync := chains } := by
  cases st <;> rfl

theorem store_withSync (a : BusAction) :
    { b with sync := chains }.store cfg a = { b.store cfg a with sync := chains } := by
  unfold Block.store
  split
  · rename_i r d _
    cases r <;> rfl
  · rfl

/-- The self-reset decides by REBOOT_CTRL alone, never by the chains. -/
theorem warmReset_withSync :
    { b.warmReset cfg { b' with sync := chains } with sync := (b.warmReset cfg b').sync } = b.warmReset cfg b' := by
  unfold Block.warmReset
  split
  · split <;> rfl
  · rfl

/-- Of the hardware's updates only that of the chains reads a raw input. -/
theorem hardware_withRaw (inp : Input) (raw' : List Bool) (a : BusAction) :
    b.hardware cfg { inp with raw := raw' } a =
      { b.hardware cfg inp a with sync := b.syncNext cfg { inp with raw := raw' } } := rfl

theorem next_withRaw (inp : Input) (raw' : List Bool) (a : BusAction) :
    { b.next cfg { inp with raw := raw' } a with sync := (b.next cfg inp a).sync } = b.next cfg inp a := by
  simp only [Block.next]
  rw [hardware_withRaw, strobe_withSync, store_withSync, warmReset_withSync]

end

section
variable {s : State} {inputs : List Input} {raw' : List Bool}
  (h : ({ s with inputs := inputs } : State).input = { s.input with raw := raw' })
include h

theorem busCycle_withRaw (a : BusAction) :
    (busCycle a { s with inputs := inputs }).out = (busCycle a s).out ∧
      { (busCycle a { s with inputs := inputs }).blk with sync := (busCycle a s).blk.sync } = (busCycle a s).blk := by
  simp only [busCycle_out, busCycle_blk, h, next_withRaw, and_self]

theorem resetCycle_withRaw :
    (resetCycle { s with inputs := inputs }).out = (resetCycle s).out ∧
      { (resetCycle { s with inputs := inputs }).blk with sync := (resetCycle s).blk.sync } = (resetCycle s).blk := by
  simp only [resetCycle_out, resetCycle_blk, h, and_self]

/-- Reset, request and bus action do not depend on the raw inputs, so the same kind of cycle runs. -/
theorem step_withRaw {t : State} (hstep : step s = .next t) :
    ∃ t', step { s with inputs := inputs } = .next t' ∧ t'.out = t.out ∧
      { t'.blk with sync := t.blk.sync } = t.blk := by
  have hreset : ({ s with inputs := inputs } : State).inReset = s.inReset := by
    unfold State.inReset
    rw [h]
    rfl
  have hreq : ({ s with inputs := inputs } : State).input.req = s.input.req := by rw [h]
  rcases step_cases hstep with ⟨hr, rfl⟩ | ⟨hr, hd, rfl⟩ | ⟨i, hr, hd, hwf, hover, rfl⟩
  · exact ⟨_, step_of_inReset (hreset.trans hr), resetCycle_withRaw h⟩
  · exact ⟨_, step_of_idle (hreset.trans hr) (hreq.trans (decode_eq_idle.mp hd)), busCycle_withRaw h {}⟩
  · have hd' : decode s.cfg ({ s with inputs := inputs } : State).input.req = .transaction i := by rw [hreq, hd]
    refine ⟨busCycle (actionOf s i) { s with inputs := inputs }, ?_, busCycle_withRaw h _⟩
    rw [step_of_transaction (hreset.trans hr) hd']
    exact exec_of_wellFormed (hreset.trans hr) hwf hover

end

theorem step_syncOut {s t : State} {c : Nat} (hr : s.inReset = false) (h : step s = .next t) (hc : c < s.cfg.numAsync) :
    t.out.syncOut.getD c false = s.blk.syncOut s.cfg c := by
  obtain ⟨a, rfl⟩ := step_busCycle hr h
  rw [busCycle_out, outputs_syncOut, syncOuts_getD _ _ _ hc]

-- The statements.

/-- Settles O57: the run folds its inputs into the chain; the first makes the steady chain a changed one, the others
move the change on, and the last stage says how far it has come. -/
theorem synchronizerLatency : Obligations.SynchronizerLatency := by
  unfold Obligations.SynchronizerLatency
  intro n c u s t ch ⟨⟨hN, _⟩, _⟩ hw hn hch hsteady hraw hrun
  subst hsteady
  have hout := syncOut_of_chain (cfg := s.cfg) (run_sync_getElem? hw hn hch hrun)
  cases n with
  | zero =>
    have hold : t.blk.syncOut s.cfg c = u := by
      rw [hout]
      exact List.getD_replicate _ (by omega)
    exact ⟨fun _ => hold, by omega, by omega⟩
  | succ m =>
    obtain ⟨_, inp, rest, hinputs, hinput⟩ := noResetFor_head hn
    obtain ⟨hlen, -⟩ := hn
    rw [hinputs, List.take_succ_cons] at hout hraw
    rw [hinputs, List.length_cons] at hlen
    obtain ⟨hfirst, hlater⟩ := List.forall_mem_cons.mp hraw
    rw [List.foldl_cons, reset_cycle_changed hfirst, changed_foldl_cycle hlater, changed_lastStage (by omega),
      List.length_take, min_eq_left (by omega), Nat.zero_add] at hout
    rw [hout, hinput]
    refine ⟨fun h => if_pos h, fun h => ?_, fun h => ?_⟩
    · rw [if_neg (by omega), if_pos h]
    · rw [if_neg (by omega), if_neg (by omega)]

/-- Settles O55: the step takes the chain through one cycle, and stage 0, shift and length are those of
`SyncChain.next`. -/
theorem chainStep : Obligations.ChainStep := by
  unfold Obligations.ChainStep
  intro s t c ch ⟨⟨hN, _⟩, _, _, _, hstages, _⟩ hr hkeep hstep hch
  have hzero : (ch.cycle s.cfg.syncStages c s.input).stages[0]? =
      some (if s.input.draws.stage0.getD c false then s.input.raw.getD c false else ch.aLast) := by
    rw [SyncChain.cycle, chainNext_zero _ _ _ _ (by omega), sampleRaw_eq]
  refine ⟨ch.cycle s.cfg.syncStages c s.input, ?next, ?length, ?either, hzero, ?shift, rfl⟩
  case next =>
    rw [step_sync_getElem? hr (.inl hkeep) hstep, hch]
    rfl
  case length => exact chainNext_length _ _ _ ch (hstages ch (List.mem_of_getElem? hch))
  case either =>
    rw [hzero]
    split
    · exact .inl rfl
    · exact .inr rfl
  case shift =>
    intro j hj hjN
    obtain ⟨i, rfl⟩ := Nat.exists_eq_add_of_le' hj
    exact chainNext_shift _ i _ _ ch hjN

/-- Settles O56: the output is the chain's last stage, and a step with other raw inputs is the same kind of cycle. -/
theorem rawInputsReachTheChainsOnly : Obligations.RawInputsReachTheChainsOnly := by
  unfold Obligations.RawInputsReachTheChainsOnly
  refine ⟨fun s t c hr hstep hc => ?_, fun s t inp rest raw' hinputs hstep => ?_⟩
  · rw [step_syncOut hr hstep hc, syncOut_eq]
  · have hinput : s.input = inp := by
      unfold State.input
      rw [hinputs]
    exact step_withRaw (by rw [hinput]; rfl) hstep

end Sys2Proof.Machine

/-! PROOFS. The outputs of a cycle show one record, and so the rails of the power sequencer show its POWER register
(43_power_sequencer R173 to R183). -/

namespace Sys2Proof.Machine

/-- The record that the outputs of the coming cycle show: a reset cycle shows `RESET` (70_reset_and_hazards R252), any
other the record at its start (10_state R41). -/
def State.shownBlock (s : State) : Block := if s.inReset then Block.reset s.cfg else s.blk

theorem shownBlock_power (s : State) : s.shownBlock.power = if s.inReset then 0x0A#8 else s.blk.power := by
  rw [State.shownBlock, apply_ite Block.power, reset_power]

/-- The request decides strobe and read data; every other output is of the record shown and the reset. -/
theorem step_out {s t : State} (h : step s = .next t) :
    ∃ st v, t.out = s.shownBlock.outputs s.cfg s.inReset st v s.out.cpuReset := by
  rw [State.shownBlock]
  cases hr : s.inReset with
  | true =>
    rw [step_of_inReset hr] at h
    cases h
    exact ⟨_, _, resetCycle_out s⟩
  | false =>
    obtain ⟨a, rfl⟩ := step_busCycle hr h
    exact ⟨_, _, busCycle_out a s⟩

-- The statements.

/-- Settles O23: the rails are outputs of the record shown, whose POWER is the reset value in a reset cycle. -/
theorem railOutputs : Obligations.RailOutputs := by
  unfold Obligations.RailOutputs
  intro s t h p
  obtain ⟨st, v, hout⟩ := step_out h
  have hp : s.shownBlock.power = p := shownBlock_power s
  rw [hout, ← hp]
  exact ⟨outputs_audioOn .., outputs_sysOn .., outputs_snoopAllowN .., outputs_memS0 .., outputs_memS1 ..,
    outputs_noisebiasOn .., outputs_noiseOn ..⟩

/-- Settles O20: the reset forces `mem_s0` low and stores the reset value of POWER, which the rails of the next cycle
show with the gate open. -/
theorem isolationForcedThenReleased : Obligations.IsolationForcedThenReleased := by
  unfold Obligations.IsolationForcedThenReleased
  intro s t hr h
  have hpower : t.blk.power = 0x0A#8 := by
    rw [step_of_inReset hr] at h
    cases h
    exact reset_power s.cfg
  refine ⟨?forced, ?state, ?released, fun hrt hidle => ⟨_, step_of_idle hrt hidle⟩⟩
  case forced =>
    obtain ⟨-, -, -, hs0, -⟩ := railOutputs s t h
    rw [hs0, hr, Bool.not_true, Bool.and_false]
  case state =>
    rw [hpower]
    decide
  case released =>
    intro hrt u hu
    obtain ⟨-, -, -, hs0, hs1, -⟩ := railOutputs t u hu
    rw [hs0, hs1, hrt, hpower]
    decide

end Sys2Proof.Machine

/-! PROOFS. The warm-reboot controller's two outputs, the request (44_warm_reboot R190) and the vector (R191), as
outputs of the record shown, and the authorization pattern `1010 11xx` as a fixed head of six bits before two free
ones. -/

namespace Sys2Proof.Machine

-- The authorization pattern.

/-- The mask `0xFC` keeps the upper six bits of a byte and drops the lower two. -/
theorem auth_append (hi : BitVec 6) (lo : BitVec 2) : auth (hi ++ lo) = (hi == 0b101011#6) := by
  have hmask : (hi ++ lo) &&& 0xFC#8 = hi ++ 0#2 :=
    calc (hi ++ lo) &&& 0xFC#8
        = (hi ++ lo) &&& (BitVec.allOnes 6 ++ 0#2) := by rw [show (0xFC#8) = BitVec.allOnes 6 ++ 0#2 by decide]
      _ = hi ++ 0#2 := by rw [BitVec.and_append, BitVec.and_allOnes, BitVec.and_zero]
  rw [auth, hmask, show 0xAC#8 = 0b101011#6 ++ 0#2 by decide, Bool.eq_iff_iff, beq_iff_eq, beq_iff_eq,
    BitVec.append_left_inj]

/-- A byte by its upper six and lower two bits. -/
theorem byte_eq_append (x : BitVec 8) : x = x.extractLsb' 2 6 ++ x.extractLsb' 0 2 := by
  rw [BitVec.extractLsb'_append_extractLsb'_eq_extractLsb' (by rfl)]
  exact BitVec.extractLsb'_eq_self.symm

theorem auth_eq_upper (x : BitVec 8) : auth x = (x.extractLsb' 2 6 == 0b101011#6) := by
  rw [← auth_append _ (x.extractLsb' 0 2), ← byte_eq_append]

theorem pattern_bits : ∀ hi : BitVec 6, (hi == 0b101011#6) =
    (hi.getLsbD 5 && hi.getLsbD 3 && hi.getLsbD 1 && hi.getLsbD 0 && !hi.getLsbD 4 && !hi.getLsbD 2) := by decide

theorem auth_eq_bits (x : BitVec 8) : auth x = (x.getLsbD 7 && x.getLsbD 5 && x.getLsbD 3 && x.getLsbD 2 &&
    !x.getLsbD 6 && !x.getLsbD 4) := by
  rw [auth_eq_upper, pattern_bits]
  simp

/-- An authorized byte is the pattern with any of the four values of its two free bits. -/
theorem auth_iff_values (x : BitVec 8) :
    auth x = true ↔ x = 0xAC#8 ∨ x = 0xAD#8 ∨ x = 0xAE#8 ∨ x = 0xAF#8 := by
  constructor
  · intro h
    have hhi : x.extractLsb' 2 6 = 0b101011#6 := by rwa [auth_eq_upper, beq_iff_eq] at h
    have hfree : ∀ lo : BitVec 2, 0b101011#6 ++ lo = 0xAC#8 ∨ 0b101011#6 ++ lo = 0xAD#8 ∨
        0b101011#6 ++ lo = 0xAE#8 ∨ 0b101011#6 ++ lo = 0xAF#8 := by decide
    rw [byte_eq_append x, hhi]
    exact hfree _
  · rintro (rfl | rfl | rfl | rfl) <;> decide

-- The two outputs.

theorem shownBlock_rebootAddr (s : State) :
    s.shownBlock.rebootAddr = if s.inReset then s.cfg.resetVectorDefault else s.blk.rebootAddr := by
  rw [State.shownBlock, apply_ite Block.rebootAddr, reset_rebootAddr]

/-- The reset masks the request, so the REBOOT_CTRL it is taken from may be the cycle's own even in a reset cycle. -/
theorem shownBlock_rebootReq (s : State) :
    rebootReq s.shownBlock.rebootCtrl s.inReset = (auth s.blk.rebootCtrl && !s.inReset) := by
  rw [rebootReq, State.shownBlock]
  cases s.inReset with
  | true => rw [Bool.not_true, Bool.and_false, Bool.and_false]
  | false => rfl

theorem step_rebootReq {s t : State} (h : step s = .next t) :
    t.out.rebootReq = (auth s.blk.rebootCtrl && !s.inReset) := by
  obtain ⟨st, v, hout⟩ := step_out h
  rw [hout, outputs_rebootReq, shownBlock_rebootReq]

theorem step_resetVector {s t : State} (h : step s = .next t) :
    t.out.resetVector = if s.inReset then s.cfg.resetVectorDefault else s.blk.rebootAddr := by
  obtain ⟨st, v, hout⟩ := step_out h
  rw [hout, outputs_resetVector, shownBlock_rebootAddr]

-- The statements.

/-- Settles O27: the request is an output of every cycle, and the pattern fixes the upper six bits of REBOOT_CTRL. -/
theorem rebootRequestPattern : Obligations.RebootRequestPattern := by
  unfold Obligations.RebootRequestPattern
  refine ⟨fun s t h => ?_, auth_eq_bits, auth_iff_values⟩
  rw [step_rebootReq h]
  rfl

/-- Settles O28: the vector is an output of every cycle, and the reset cycle stores `RESET`, which holds the build's
default. -/
theorem resetVectorFollowsRebootAddr : Obligations.ResetVectorFollowsRebootAddr := by
  unfold Obligations.ResetVectorFollowsRebootAddr
  intro s t h
  rw [step_resetVector h]
  refine ⟨fun hr => if_neg (by simp [hr]), fun hr => ⟨if_pos hr, ?stored⟩⟩
  case stored =>
    rw [step_of_inReset hr] at h
    cases h
    exact reset_rebootAddr s.cfg

end Sys2Proof.Machine

/-! PROOFS. The clock port over one step: what its request strobes (45_clock_port R213, R215), and the handshake as
completion and then strobe leave it (R214). -/

namespace Sys2Proof

-- Which request is a transaction.

theorem size_of_decodeAccess {cfg : Config} {we : Bool} {a d : Word} {size : Nat} {i : Instr}
    (h : decodeAccess cfg we a size d = .transaction i) : size = accessBytes := by
  by_contra hsize
  rw [decodeAccess_badWidth cfg we a d hsize] at h
  cases h

/-- Decode finds a transaction exactly in the request that encodes it (30_encoding R71, R72). -/
theorem decode_eq_transaction_iff {cfg : Config} {q : Request} {i : Instr} :
    decode cfg q = .transaction i ↔ q = encode i ∧ i.wellFormed cfg = true := by
  constructor
  · intro h
    cases q with
    | idle => cases h
    | read a size =>
      obtain rfl := size_of_decodeAccess h
      obtain ⟨rfl, hd, hw⟩ := decodeAccess_eq_transaction_iff.mp h
      exact ⟨by simp [encode, hd], hw⟩
    | write a size d =>
      obtain rfl := size_of_decodeAccess h
      obtain ⟨rfl, hd, hw⟩ := decodeAccess_eq_transaction_iff.mp h
      exact ⟨by simp [encode, hd], hw⟩
  · rintro ⟨rfl, hw⟩
    unfold encode
    cases hd : i.writeData with
    | none => exact decodeAccess_eq_transaction_iff.mpr ⟨rfl, hd, hw⟩
    | some d => exact decodeAccess_eq_transaction_iff.mpr ⟨rfl, hd, hw⟩

end Sys2Proof

namespace Sys2Proof.Machine

-- The strobe of a cycle.

theorem strobes_of_idle {s : State} (h : decode s.cfg s.input.req = .idle) : strobes s = false := by
  unfold strobes
  rw [h]

theorem strobes_of_transaction {s : State} {i : Instr} (h : decode s.cfg s.input.req = .transaction i) :
    strobes s = ((actionOf s i).strobe != .none) := by
  unfold strobes
  rw [h]
  cases i <;> rfl

theorem strobe_eq_write_iff {s : State} {i : Instr} :
    (actionOf s i).strobe = .write ↔ ∃ d, i = .wrDrpWrite d := by
  constructor
  · intro h
    rcases strobe_of_action (s := s) (i := i) (by rw [h]; decide) with ⟨_, _, hread⟩ | ⟨d, hi, _⟩
    · rw [h] at hread
      cases hread
    · exact ⟨d, hi⟩
  · rintro ⟨d, rfl⟩
    rfl

/-- The request decides the strobe of a cycle that answers a next state, and a busy port gets none (45_clock_port
R215). -/
theorem step_strobe {s t : State} (hr : s.inReset = false) (h : step s = .next t) :
    ∃ a, t = busCycle a s ∧ (a.strobe != .none) = strobes s ∧
      (a.strobe = .write ↔ ∃ d, s.input.req = encode (.wrDrpWrite d)) ∧
      (s.blk.drpBusy ≠ .idle → a.strobe = .none) := by
  have hwrite : (∃ d, s.input.req = encode (.wrDrpWrite d)) ↔
      ∃ d, decode s.cfg s.input.req = .transaction (.wrDrpWrite d) := by
    simp [decode_eq_transaction_iff, Instr.wellFormed]
  rw [hwrite]
  rcases step_cases h with ⟨hr', _⟩ | ⟨_, hd, rfl⟩ | ⟨i, _, hd, _, hover, rfl⟩
  · rw [hr] at hr'
    cases hr'
  · exact ⟨{}, rfl, (strobes_of_idle hd).symm, by simp [hd], fun _ => rfl⟩
  · refine ⟨actionOf s i, rfl, (strobes_of_transaction hd).symm, by simp [hd, strobe_eq_write_iff], fun hb => ?_⟩
    simpa [overlaps, hb] using hover

/-- A strobe of a busy port faults, whatever `drp_rdy` says (45_clock_port R215). -/
theorem exec_of_overlaps {s : State} {i : Instr} (hr : s.inReset = false) (ho : overlaps s i = true) :
    exec i s = .fault (.drpOverlap (encode i) s.blk.drpBusy) := by
  rw [exec_eq, if_neg (by simp [hr]), if_pos ho]

-- The handshake after a cycle.

/-- The port is written by the completion and then by the strobe; no store reaches its status. -/
theorem busCycle_handshake {s : State} (hk : s.KeepsUpdates) (a : BusAction) :
    (busCycle a s).blk.drpReady = ((s.blk.hardware s.cfg s.input a).strobe a.strobe).drpReady ∧
      (busCycle a s).blk.drpBusy = ((s.blk.hardware s.cfg s.input a).strobe a.strobe).drpBusy ∧
      (busCycle a s).blk.drpDatR = (s.blk.complete s.input).drpDatR := by
  obtain ⟨hready, hbusy, hdat⟩ := store_handshake s.cfg a ((s.blk.hardware s.cfg s.input a).strobe a.strobe)
  rw [busCycle_blk_keeps hk, hready, hbusy, hdat, strobe_drpDatR, hardware_drpDatR]
  exact ⟨rfl, rfl, rfl⟩

theorem busCycle_handshake_of_noStrobe {s : State} (hk : s.KeepsUpdates) {a : BusAction} (ha : a.strobe = .none) :
    (busCycle a s).blk.drpReady = (s.blk.complete s.input).drpReady ∧
      (busCycle a s).blk.drpBusy = (s.blk.complete s.input).drpBusy ∧
      (busCycle a s).blk.drpDatR = (s.blk.complete s.input).drpDatR := by
  obtain ⟨hready, hbusy, hdat⟩ := busCycle_handshake hk a
  rw [ha, strobe_none] at hready hbusy
  exact ⟨hready, hbusy, hdat⟩

/-- An answered request is over, and a read's data is taken (45_clock_port R214). -/
theorem complete_answered {b : Block} {inp : Input} (hb : b.drpBusy ≠ .idle) (hrdy : inp.drpRdy = true) :
    (b.complete inp).drpBusy = .idle ∧ (b.complete inp).drpReady = true ∧
      (b.complete inp).drpDatR = if b.drpBusy = .rd then inp.drpDo else b.drpDatR := by
  cases hbusy : b.drpBusy with
  | idle => exact absurd hbusy hb
  | rd => rw [complete_read _ _ hbusy hrdy]; exact ⟨rfl, rfl, rfl⟩
  | wr => rw [complete_write _ _ hbusy hrdy]; exact ⟨rfl, rfl, rfl⟩

-- The statements.

/-- Settles O35: the outputs are those of the request's strobe and of the record at the start of the cycle; a reset
cycle shows `RESET` without a strobe. -/
theorem clockPortOutputs : Obligations.ClockPortOutputs := by
  unfold Obligations.ClockPortOutputs
  intro s t h
  refine ⟨fun hr => ?running, fun hr => ?reset⟩
  case running =>
    obtain ⟨a, rfl, hen, hwe, -⟩ := step_strobe hr h
    rw [busCycle_out]
    exact ⟨hen, beq_iff_eq.trans hwe, outputs_drpAddr .., outputs_drpDi ..⟩
  case reset =>
    rw [step_of_inReset hr] at h
    cases h
    rw [resetCycle_out]
    exact ⟨rfl, rfl, reset_drpAdr s.cfg, reset_drpDatW s.cfg⟩

/-- Settles O36: a busy port gets no strobe, so its handshake is the completion's; an idle port has none to
complete, and only a strobe moves it. -/
theorem clockPortCompletion : Obligations.ClockPortCompletion := by
  unfold Obligations.ClockPortCompletion
  intro s t hr hk h
  obtain ⟨a, rfl, hstrobes, -, hfree⟩ := step_strobe hr h
  refine ⟨fun hb hrdy => ?answered, fun hb hrdy => ?waiting, fun hb => ⟨?data, fun hno => ?idle⟩⟩
  case answered =>
    obtain ⟨hready, hbusy, hdat⟩ := busCycle_handshake_of_noStrobe hk (hfree hb)
    rw [hready, hbusy, hdat]
    exact complete_answered hb hrdy
  case waiting =>
    obtain ⟨hready, hbusy, hdat⟩ := busCycle_handshake_of_noStrobe hk (hfree hb)
    rw [hready, hbusy, hdat, complete_waiting _ _ hrdy]
    exact ⟨rfl, rfl, rfl⟩
  case data =>
    obtain ⟨-, -, hdat⟩ := busCycle_handshake hk a
    rw [hdat, complete_idle _ _ hb]
  case idle =>
    have ha : a.strobe = .none := by simpa [hno] using hstrobes
    obtain ⟨hready, hbusy, -⟩ := busCycle_handshake_of_noStrobe hk ha
    rw [hready, hbusy, complete_idle _ _ hb]
    exact ⟨hb, rfl⟩

/-- Settles O39: both transactions strobe, so each overlaps the outstanding request. -/
theorem overlappingStrobeFaults : Obligations.OverlappingStrobeFaults := by
  unfold Obligations.OverlappingStrobeFaults
  intro s d hr hb
  have hread : overlaps s (.wrDrpRead d) = true := by simp [overlaps, actionOf, hb]
  have hwrite : overlaps s (.wrDrpWrite d) = true := by simp [overlaps, actionOf, hb]
  exact ⟨exec_of_overlaps hr hread, exec_of_overlaps hr hwrite⟩

end Sys2Proof.Machine

/-! PROOFS. The order of the faults (60_exceptions R233): decode tests the size before the table, and only a request
that decodes to a strobe can find the port busy. -/

namespace Sys2Proof

/-- A request that is not idle decodes as an access; the data of a read is not looked at. -/
theorem decode_access (cfg : Config) (we : Bool) (a d : Word) (size : Nat) :
    decode cfg (if we then .write a size d else .read a size) =
      decodeAccess cfg we a size (if we then d else 0#32) := by
  cases we with
  | false => rfl
  | true => rfl

end Sys2Proof

namespace Sys2Proof.Machine

/-- A request that encodes a transaction of the build runs it (40_register_bus R100). -/
theorem step_of_encode {s : State} {i : Instr} (hr : s.inReset = false) (hw : i.wellFormed s.cfg = true)
    (hq : s.input.req = encode i) : step s = exec i s :=
  step_of_transaction hr (decode_eq_transaction_iff.mpr ⟨hq, hw⟩)

/-- Settles O7: decode rejects the size, then the offset; what is left is a transaction, and a strobe of a busy port
overlaps. -/
theorem faultPriority : Obligations.FaultPriority := by
  unfold Obligations.FaultPriority
  intro s we a d size hq
  have hdecode : decode s.cfg s.input.req = decodeAccess s.cfg we a size (if we then d else 0#32) := by
    rw [hq, decode_access]
  refine ⟨fun hr => ⟨resetCycle s, step_of_inReset hr⟩, fun hr hsize => ?width, fun hr hsize hno => ?hole,
    fun hr _ hb hstrobe => ?overlap⟩
  case width =>
    exact step_of_rejected hr (hdecode.trans (decodeAccess_badWidth s.cfg we a _ hsize))
  case hole =>
    subst hsize
    refine step_of_rejected hr (hdecode.trans ((decodeAccess_cases s.cfg we a _).resolve_left ?_))
    rintro ⟨i, -, -, hi⟩
    obtain ⟨hreq, hw⟩ := decode_eq_transaction_iff.mp (hdecode.trans hi)
    exact hno i hw hreq.symm
  case overlap =>
    obtain ⟨hread, hwrite⟩ := overlappingStrobeFaults s d hr hb
    rcases hstrobe with h | h
    · rw [step_of_encode hr rfl h, hread, h]
    · rw [step_of_encode hr rfl h, hwrite, h]

end Sys2Proof.Machine

/-! PROOFS. Requests and the step they ask for: decode as the inverse of encode (30_encoding R71, R72), the words of the
opcode table (log 6), CPU addresses (20_memory R51), and what a step runs, keeps and never answers (40_register_bus
R100). -/

namespace Sys2Proof

/-- Settles O1: decode finds a transaction in the request that encodes it. -/
theorem decodeOfEncodeIsTheTransaction : Obligations.DecodeOfEncodeIsTheTransaction := by
  unfold Obligations.DecodeOfEncodeIsTheTransaction
  intro cfg i hw
  exact decode_eq_transaction_iff.mpr ⟨rfl, hw⟩

/-- Settles O2: and in no other request. -/
theorem decodedRequestIsItsEncoding : Obligations.DecodedRequestIsItsEncoding := by
  unfold Obligations.DecodedRequestIsItsEncoding
  intro cfg req i h
  exact decode_eq_transaction_iff.mp h

end Sys2Proof

namespace Sys2Proof.Machine

/-- Settles O4: five closed words, each taken through the packing and the table. -/
theorem writtenOutWordsDecode : Obligations.WrittenOutWordsDecode := by
  unfold Obligations.WrittenOutWordsDecode
  decide

/-- Settles O8: the offset of an address is its distance from `CSR_BASE`. -/
theorem cpuAccessReachesItsOffset : Obligations.CpuAccessReachesItsOffset := by
  unfold Obligations.CpuAccessReachesItsOffset
  intro cfg a d
  rw [memRead, memWrite, BitVec.add_comm, BitVec.add_sub_cancel]
  exact ⟨rfl, rfl⟩

/-- Settles O9: the request of a transaction decodes to it, and the idle request to the idle cycle. -/
theorem stepRunsTheDecodedTransaction : Obligations.StepRunsTheDecodedTransaction := by
  unfold Obligations.StepRunsTheDecodedTransaction
  intro s i hr
  exact ⟨step_of_encode hr, step_of_idle hr⟩

theorem exec_ne_refused (i : Instr) (s : State) (r : Refusal) : exec i s ≠ .refused r := by
  rw [exec_eq]
  split_ifs <;> exact nofun

/-- Settles O10: every outcome of `exec` is a next state or a fault, and a step adds the faults of decode. -/
theorem stepNeverRefuses : Obligations.StepNeverRefuses := by
  unfold Obligations.StepNeverRefuses
  refine ⟨fun s r => ?_, fun s i r => exec_ne_refused i s r⟩
  unfold step
  split
  · exact nofun
  · split
    · exact nofun
    · exact exec_ne_refused _ s r
    · exact nofun

theorem step_cycle {s t : State} (h : step s = .next t) : t.cycle = s.cycle + 1 := by
  rcases step_cases h with ⟨_, rfl⟩ | ⟨_, _, rfl⟩ | ⟨_, _, _, _, _, rfl⟩ <;> rfl

/-- Settles O11: each of the three kinds of cycle does. -/
theorem stepKeepsTheBuild : Obligations.StepKeepsTheBuild := by
  unfold Obligations.StepKeepsTheBuild
  intro s t h
  exact ⟨step_cfg h, step_cycle h, step_inputs h⟩

-- The field of `setf`.

/-- The mask of the field `hi:lo`. -/
theorem fieldMask_getLsbD (hi lo : Nat) {b : Nat} (hb : b < 32) :
    (BitVec.ofNat 32 ((2 ^ (hi + 1 - lo) - 1) * 2 ^ lo)).getLsbD b = decide (lo ≤ b ∧ b ≤ hi) := by
  rw [BitVec.getLsbD_ofNat, Nat.testBit_mul_two_pow, Nat.testBit_two_pow_sub_one, Bool.eq_iff_iff]
  simp only [Bool.and_eq_true, decide_eq_true_eq]
  omega

/-- Settles O60: the mask selects the field from the shifted value and the rest from the value read. -/
theorem setFieldChangesItsFieldOnly : Obligations.SetFieldChangesItsFieldOnly := by
  unfold Obligations.SetFieldChangesItsFieldOnly
  intro v new hi lo b _ _ hb
  simp only [setField, BitVec.getLsbD_or, BitVec.getLsbD_and, BitVec.getLsbD_not, BitVec.getLsbD_shiftLeft,
    fieldMask_getLsbD hi lo hb]
  by_cases h : lo ≤ b ∧ b ≤ hi
  · simp [h, hb]
  · simp [h, hb]

end Sys2Proof.Machine

/-! PROOFS. The invariant of the record (10_state R20, R33, R35): `RESET` has it, and each part of a cycle keeps it: the
hardware's updates, a strobe, a store, the warm-reboot self-reset. -/

namespace Sys2Proof.Machine

section
variable {cfg : Config} {b b' : Block}

-- One manager.

/-- A mask keeps its own bits only. -/
theorem and_mask_within (x mask : Word) : (x &&& mask) &&& ~~~mask = 0#32 := by
  rw [BitVec.and_assoc, BitVec.and_not_self]
  exact BitVec.and_zero

theorem evReset_inv (srcs : List Source) : (EvManager.reset srcs).Inv srcs :=
  ⟨BitVec.zero_and, BitVec.zero_and, BitVec.zero_and, packSources_within _ srcs⟩

theorem managerNext_inv (inp : Input) (clear : Word) {k : Nat} {m : EvManager} (h : m.Inv (cfg.sources k)) :
    (m.next cfg b inp clear k).Inv (cfg.sources k) := by
  obtain ⟨-, hen, hpol, -⟩ := h
  exact ⟨packSources_within _ _, hen, hpol, packSources_within _ _⟩

-- The record through the parts of a cycle.

theorem reset_inv (cfg : Config) : (Block.reset cfg).Inv cfg := by
  refine ⟨reset_ev_length cfg, fun k _ => ?managers, reset_sync_length cfg, ?chains, by simp⟩
  case managers =>
    rw [managerAt_reset]
    exact evReset_inv _
  case chains =>
    intro ch hch
    obtain ⟨u, -, rfl⟩ := List.mem_map.mp hch
    exact List.length_replicate

/-- A completion ends the request and sets ready at once (45_clock_port R214). -/
theorem complete_ready_iff (inp : Input) (h : b.drpReady = true ↔ b.drpBusy = .idle) :
    (b.complete inp).drpReady = true ↔ (b.complete inp).drpBusy = .idle := by
  unfold Block.complete
  split
  · exact h
  · exact h
  · exact iff_of_true rfl rfl
  · exact iff_of_true rfl rfl

theorem hardware_inv (inp : Input) (a : BusAction) (h : b.Inv cfg) : (b.hardware cfg inp a).Inv cfg := by
  obtain ⟨hev, hman, hsync, hstages, hport⟩ := h
  refine ⟨?count, fun k hk => ?managers, ?channels, ?chains, complete_ready_iff inp hport⟩
  case count => rw [hardware_ev, evNext_length, hev]
  case managers =>
    rw [hardware_managerAt _ _ _ _ _ (by rwa [hev])]
    exact managerNext_inv inp _ (hman k hk)
  case channels => rw [hardware_sync, Block.syncNext, List.length_mapIdx, hsync]
  case chains =>
    intro ch hch
    obtain ⟨c, hc, rfl⟩ := List.mem_mapIdx.mp hch
    exact chainNext_length _ _ _ _ (hstages _ (List.getElem_mem hc))

theorem strobe_inv (st : Strobe) (h : b.Inv cfg) : (b.strobe st).Inv cfg := by
  obtain ⟨hev, hman, hsync, hstages, hport⟩ := h
  cases st with
  | none => exact ⟨hev, hman, hsync, hstages, hport⟩
  | read | write => exact ⟨hev, hman, hsync, hstages, by simp⟩

/-- What a store writes to a manager lies within the register's mask. -/
theorem put_managerAt_inv (r : RegRef) (d : Word) {k : Nat} (h : (b.managerAt k).Inv (cfg.sources k)) :
    ((r.put cfg d b).managerAt k).Inv (cfg.sources k) := by
  obtain ⟨hpend, hen, hpol, hprev⟩ := h
  rw [put_managerAt]
  split
  · split
    · rename_i hk
      exact ⟨hpend, hk.1 ▸ and_mask_within d _, hpol, hprev⟩
    · exact ⟨hpend, hen, hpol, hprev⟩
  · split
    · rename_i hk
      exact ⟨hpend, hen, hk.1 ▸ and_mask_within d _, hprev⟩
    · exact ⟨hpend, hen, hpol, hprev⟩
  · exact ⟨hpend, hen, hpol, hprev⟩

theorem put_ev_length (r : RegRef) (d : Word) : (r.put cfg d b).ev.length = b.ev.length := by
  cases r <;> simp

theorem store_inv (a : BusAction) (h : b.Inv cfg) : (b.store cfg a).Inv cfg := by
  obtain ⟨hev, hman, hsync, hstages, hport⟩ := h
  obtain ⟨hready, hbusy, -⟩ := store_handshake cfg a b
  rw [Block.Inv, store_sync, hready, hbusy]
  refine ⟨?count, fun k hk => ?managers, hsync, hstages, hport⟩
  case count =>
    unfold Block.store
    split
    · rw [put_ev_length, hev]
    · exact hev
  case managers =>
    unfold Block.store
    split
    · exact put_managerAt_inv _ _ (hman k hk)
    · exact hman k hk

/-- The self-reset leaves the updated record or a reset one, but for REBOOT_CTRL and REBOOT_ADDR. -/
theorem warmReset_inv (h : b'.Inv cfg) : (b.warmReset cfg b').Inv cfg := by
  unfold Block.warmReset
  split
  · split
    · exact h
    · exact h
    · exact reset_inv cfg
    · exact reset_inv cfg
  · exact h

theorem next_inv (inp : Input) (a : BusAction) (h : b.Inv cfg) : (b.next cfg inp a).Inv cfg :=
  warmReset_inv (store_inv a (strobe_inv a.strobe (hardware_inv inp a h)))

end

theorem step_inv {s t : State} (hi : s.Inv) (h : step s = .next t) : t.Inv := by
  obtain ⟨hwf, hblk⟩ := hi
  cases hr : s.inReset with
  | true =>
    rw [step_of_inReset hr] at h
    cases h
    exact ⟨hwf, reset_inv s.cfg⟩
  | false =>
    obtain ⟨a, rfl⟩ := step_busCycle hr h
    exact ⟨hwf, next_inv s.input a hblk⟩

/-- Settles O12: a reset cycle stores `RESET`, any other the next record. -/
theorem stepKeepsInvariant : Obligations.StepKeepsInvariant := by
  unfold Obligations.StepKeepsInvariant
  exact fun _ _ => step_inv

/-- Settles O13: `RESET` has the shape of its build. -/
theorem resetHasInvariant : Obligations.ResetHasInvariant := by
  unfold Obligations.ResetHasInvariant
  exact fun cfg hwf => ⟨hwf, reset_inv cfg⟩

end Sys2Proof.Machine

/-! PROOFS. What a transaction leaves unchanged (40_register_bus R101 to R105): a read-write register changes by its own
store only, and everything the hardware updates is as after an idle cycle. With it the writes and reads of the power
sequencer, the warm-reboot controller and the clock port. -/

namespace Sys2Proof

/-- A transaction is determined by its request (30_encoding R71). -/
theorem encode_injective {i j : Instr} (h : encode i = encode j) : i = j := by
  have hparts : i.offset = j.offset ∧ i.writeData = j.writeData := by
    unfold encode at h
    cases hi : i.writeData <;> cases hj : j.writeData <;> simp_all
  obtain ⟨hoff, hdata⟩ := hparts
  have hdecode (d : Word) (hd : ∀ d', j.writeData = some d' → d' = d) : some i = some j := by
    have hrq : encodeRQ i = encodeRQ j := by rw [encodeRQ, encodeRQ, hoff, hdata]
    rw [← decodeRQ_encodeRQ hd, ← hrq]
    exact (decodeRQ_encodeRQ (hdata ▸ hd)).symm
  cases hj : j.writeData with
  | none => exact Option.some.inj (hdecode 0#32 (by simp [hj]))
  | some d => exact Option.some.inj (hdecode d (by simp [hj]))

theorem encode_ne_idle (i : Instr) : encode i ≠ .idle := by
  unfold encode
  split <;> exact nofun

end Sys2Proof

namespace Sys2Proof.Machine

-- The frame of a bus action.

section
variable {s : State}

theorem busCycle_get_of_not_stored (hk : s.KeepsUpdates) {r : RegRef} (hr : r.mode = .rw) {a : BusAction}
    (h : ∀ d, a.store ≠ some (r, d)) : r.get s.cfg (busCycle a s).blk = r.get s.cfg s.blk := by
  have hupdates : r.get s.cfg ((s.blk.hardware s.cfg s.input a).strobe a.strobe) = r.get s.cfg s.blk := by
    rw [strobe_get _ _ hr, hardware_get _ hr]
  rw [busCycle_blk_keeps hk]
  cases hst : a.store with
  | none => rw [store_none hst, hupdates]
  | some p =>
    obtain ⟨r', d⟩ := p
    have hne : r ≠ r' := by
      rintro rfl
      exact h d hst
    rw [store_some hst, put_get_of_ne r r' d hne, hupdates]

/-- The hardware looks at the clear of manager `k` only in its own equation for manager `k`. -/
theorem hardware_managerAt_congr (cfg : Config) (b : Block) (inp : Input) {a a' : BusAction} {k : Nat}
    (h : a.clearOf k = a'.clearOf k) :
    (b.hardware cfg inp a).managerAt k = (b.hardware cfg inp a').managerAt k := by
  simp only [Block.managerAt, List.getD_eq_getElem?_getD, hardware_ev, evNext_getElem?, h]

/-- A clear does not reach the edge history (41_event_manager R126). -/
theorem hardware_managerAt_prev (cfg : Config) (b : Block) (inp : Input) (a a' : BusAction) (k : Nat) :
    ((b.hardware cfg inp a).managerAt k).prev = ((b.hardware cfg inp a').managerAt k).prev := by
  by_cases hk : k < b.ev.length
  · rw [hardware_managerAt _ _ _ _ _ hk, hardware_managerAt _ _ _ _ _ hk]
    rfl
  · simp [Block.managerAt, hk]

/-- Pending bits and edge history are the hardware's; no strobe or store reaches them. -/
theorem busCycle_managerAt_status (hk : s.KeepsUpdates) (a : BusAction) (k : Nat) :
    ((busCycle a s).blk.managerAt k).pending = ((s.blk.hardware s.cfg s.input a).managerAt k).pending ∧
      ((busCycle a s).blk.managerAt k).prev = ((s.blk.hardware s.cfg s.input a).managerAt k).prev := by
  obtain ⟨hpend, hprev⟩ :=
    store_managerAt_status s.cfg a ((s.blk.hardware s.cfg s.input a).strobe a.strobe) k
  rw [busCycle_blk_keeps hk, hpend, hprev, strobe_managerAt]
  exact ⟨rfl, rfl⟩

theorem busCycle_sync (hk : s.KeepsUpdates) (a : BusAction) :
    (busCycle a s).blk.sync = s.blk.syncNext s.cfg s.input := by
  rw [busCycle_blk_keeps hk, store_sync, strobe_sync, hardware_sync]

theorem clearOf_of_not_cleared {a : BusAction} {k : Nat} (h : ∀ j d, a.clear = some (j, d) → j.toNat ≠ k) :
    a.clearOf k = 0#32 := by
  unfold BusAction.clearOf
  split
  · rename_i j d hc
    exact if_neg (h j d hc)
  · rfl

/-- A bus action whose store and whose clear are of listed registers writes those only. -/
theorem writesOnly_busCycle (hk : s.KeepsUpdates) {a : BusAction} {written : List RegRef}
    (hstore : ∀ r d, a.store = some (r, d) → r ∈ written)
    (hclear : ∀ k d, a.clear = some (k, d) → RegRef.evPending k ∈ written) :
    WritesOnly s (busCycle a s) written := by
  refine ⟨fun r hr hnot => ?registers, ?data, ?chains, fun k hnot => ?pending, fun k => ?prev, rfl, rfl⟩
  case registers =>
    exact busCycle_get_of_not_stored hk hr fun d hst => hnot (hstore r d hst)
  case data =>
    obtain ⟨-, -, hdat⟩ := busCycle_handshake hk a
    obtain ⟨-, -, hdatIdle⟩ := busCycle_handshake hk {}
    exact hdat.trans hdatIdle.symm
  case chains => rw [idleCycle, busCycle_sync hk, busCycle_sync hk]
  case pending =>
    obtain ⟨hpend, -⟩ := busCycle_managerAt_status hk a k
    obtain ⟨hpendIdle, -⟩ := busCycle_managerAt_status hk {} k
    have hclearOf : a.clearOf k = BusAction.clearOf {} k :=
      clearOf_of_not_cleared fun j d hc => hnot j (hclear j d hc)
    rw [idleCycle, hpend, hpendIdle, hardware_managerAt_congr _ _ _ hclearOf]
  case prev =>
    obtain ⟨-, hprev⟩ := busCycle_managerAt_status hk a k
    obtain ⟨-, hprevIdle⟩ := busCycle_managerAt_status hk {} k
    rw [idleCycle, hprev, hprevIdle]
    exact hardware_managerAt_prev _ _ _ _ _ k

theorem handshakeAsIdle_busCycle (hk : s.KeepsUpdates) {a : BusAction} (ha : a.strobe = .none) :
    HandshakeAsIdle s (busCycle a s) := by
  obtain ⟨hready, hbusy, -⟩ := busCycle_handshake_of_noStrobe hk ha
  obtain ⟨hready', hbusy', -⟩ := busCycle_handshake_of_noStrobe hk (a := {}) rfl
  exact ⟨hready.trans hready'.symm, hbusy.trans hbusy'.symm⟩

-- The write of a read-write register.

/-- The cycle of a write of `d` to the read-write register `r`. -/
def storeCycle (r : RegRef) (d : Word) (s : State) : State := busCycle { store := some (r, d) } s

theorem exec_store {r : RegRef} (d : Word) (hr : s.inReset = false) (hrw : r.mode = .rw)
    (hw : r.readInstr.wellFormed s.cfg = true) : exec (r.writeInstr d) s = .next (storeCycle r d s) := by
  have ha := writeInstr_action s r d hrw
  rw [exec_of_noStrobe hr (by rwa [readInstr_wellFormed]) (by rw [ha]), ha, storeCycle]

theorem storeCycle_blk (hk : s.KeepsUpdates) (r : RegRef) (d : Word) :
    (storeCycle r d s).blk = r.put s.cfg d (s.blk.hardware s.cfg s.input { store := some (r, d) }) := by
  rw [storeCycle, busCycle_blk_keeps hk, strobe_none, store_some rfl]

theorem storeCycle_writesOnly (hk : s.KeepsUpdates) (r : RegRef) (d : Word) :
    WritesOnly s (storeCycle r d s) [r] :=
  writesOnly_busCycle hk (by rintro r d ⟨⟩; exact List.mem_singleton_self r) nofun

theorem storeCycle_handshake (hk : s.KeepsUpdates) (r : RegRef) (d : Word) :
    HandshakeAsIdle s (storeCycle r d s) :=
  handshakeAsIdle_busCycle hk rfl

end

-- The statements: storage.

/-- Settles O14: an idle cycle is the bus cycle without an action. -/
theorem idleCycleStoresNothing : Obligations.IdleCycleStoresNothing := by
  unfold Obligations.IdleCycleStoresNothing
  intro s hr hk hq
  exact ⟨_, step_of_idle hr hq, fun r hrw => busCycle_get_of_not_stored hk hrw nofun⟩

/-- Settles O16: a step whose request is the write runs its store, and the action of any other step stores nothing in
the register. -/
theorem storageChangesByItsOwnWriteOnly : Obligations.StorageChangesByItsOwnWriteOnly := by
  unfold Obligations.StorageChangesByItsOwnWriteOnly
  intro s t r hi hr hk hrw h
  refine ⟨fun d hq => ?own, fun hno => ?other⟩
  case own =>
    rcases step_cases h with ⟨hr', _⟩ | ⟨_, hd, _⟩ | ⟨i, _, hd, hw, _, rfl⟩
    · rw [hr] at hr'
      cases hr'
    · exact absurd (hq.symm.trans (decode_eq_idle.mp hd)) (encode_ne_idle _)
    · obtain ⟨hreq, -⟩ := decode_eq_transaction_iff.mp hd
      obtain rfl := encode_injective (hreq.symm.trans hq)
      exact get_after_store d hi hk hrw (by rwa [readInstr_wellFormed] at hw)
  case other =>
    obtain ⟨a, rfl, -, hstore⟩ := step_action hr h
    refine busCycle_get_of_not_stored hk hrw fun d hst => hno d ?_
    exact (decode_eq_transaction_iff.mp (hstore r d hst)).1

-- The statements: power sequencer and warm-reboot controller.

/-- Settles O21: a read of a register every build has. -/
theorem powerRead : Obligations.PowerRead := by
  unfold Obligations.PowerRead
  exact fun s hr => exec_readInstr (r := .power) hr rfl

/-- Settles O24: two reads of registers every build has. -/
theorem rebootReads : Obligations.RebootReads := by
  unfold Obligations.RebootReads
  exact fun s hr => ⟨exec_readInstr (r := .rebootCtrl) hr rfl, exec_readInstr (r := .rebootAddr) hr rfl⟩

/-- Settles O22: the fields are those of the stored byte, and the byte is the word's lowest. -/
theorem powerWrite : Obligations.PowerWrite := by
  unfold Obligations.PowerWrite
  intro s d hr hk
  have hpower : (storeCycle .power d s).blk.power = d.extractLsb' 0 8 := by
    rw [storeCycle_blk hk, put_power_power]
  refine ⟨_, exec_store (r := .power) d hr rfl rfl, hpower, ?_⟩
  rw [hpower]
  refine ⟨by simp, by simp, by simp, ?mem, by simp, ?noise, storeCycle_writesOnly hk _ d,
    storeCycle_handshake hk _ d⟩
  case mem => exact BitVec.extractLsb'_extractLsb'_of_le (by decide)
  case noise => exact BitVec.extractLsb'_extractLsb'_of_le (by decide)

/-- Settles O25: the store, and the request as an output of the next cycle. -/
theorem rebootCtrlWrite : Obligations.RebootCtrlWrite := by
  unfold Obligations.RebootCtrlWrite
  intro s d hr hk
  have hctrl : (storeCycle .rebootCtrl d s).blk.rebootCtrl = d.extractLsb' 0 8 := by
    rw [storeCycle_blk hk, put_rebootCtrl_rebootCtrl]
  refine ⟨_, exec_store (r := .rebootCtrl) d hr rfl rfl, hctrl, storeCycle_writesOnly hk _ d,
    storeCycle_handshake hk _ d, fun hrt u hu => ?request⟩
  case request => rw [step_rebootReq hu, hctrl, hrt, Bool.not_false, Bool.and_true]

/-- Settles O26: the store, and the vector as an output of the next cycle. -/
theorem rebootAddrWrite : Obligations.RebootAddrWrite := by
  unfold Obligations.RebootAddrWrite
  intro s d hr hk
  have haddr : (storeCycle .rebootAddr d s).blk.rebootAddr = d := by
    rw [storeCycle_blk hk, put_rebootAddr_rebootAddr]
  refine ⟨_, exec_store (r := .rebootAddr) d hr rfl rfl, haddr, storeCycle_writesOnly hk _ d,
    storeCycle_handshake hk _ d, fun hrt u hu => ?vector⟩
  case vector => rw [step_resetVector hu, hrt, haddr, if_neg Bool.false_ne_true]

-- The statements: clock port.

/-- Settles O31: six reads of registers every build has; a strobe register's data is 0. -/
theorem clockPortReads : Obligations.ClockPortReads := by
  unfold Obligations.ClockPortReads
  intro s hr
  have hready : RegRef.drpReady.get s.cfg s.blk = if s.blk.drpReady then 1#32 else 0#32 := by
    rw [RegRef.get]
    cases s.blk.drpReady <;> rfl
  exact ⟨exec_readInstr (r := .drpAdr) hr rfl, exec_readInstr (r := .drpDatW) hr rfl,
    exec_readInstr (r := .drpDatR) hr rfl, hready ▸ exec_readInstr (r := .drpReady) hr rfl,
    exec_readInstr (r := .drpRead) hr rfl, exec_readInstr (r := .drpWrite) hr rfl⟩

/-- Settles O33: the bus action of such a write is that of the idle cycle. -/
theorem statusFieldsIgnoreWrites : Obligations.StatusFieldsIgnoreWrites := by
  unfold Obligations.StatusFieldsIgnoreWrites
  exact fun s d hr => ⟨exec_of_noStrobe hr rfl rfl, exec_of_noStrobe hr rfl rfl⟩

/-- Settles O32: a store needs no idle port, and reaches no part of the handshake. -/
theorem clockPortStorageWrites : Obligations.ClockPortStorageWrites := by
  unfold Obligations.ClockPortStorageWrites
  intro s d hr hk
  have hadr : (storeCycle .drpAdr d s).blk.drpAdr = d.extractLsb' 0 7 := by
    rw [storeCycle_blk hk, put_drpAdr_drpAdr]
  have hdat : (storeCycle .drpDatW d s).blk.drpDatW = d.extractLsb' 0 16 := by
    rw [storeCycle_blk hk, put_drpDatW_drpDatW]
  exact ⟨⟨_, exec_store (r := .drpAdr) d hr rfl rfl, hadr, storeCycle_writesOnly hk _ d,
      storeCycle_handshake hk _ d⟩,
    _, exec_store (r := .drpDatW) d hr rfl rfl, hdat, storeCycle_writesOnly hk _ d, storeCycle_handshake hk _ d⟩

/-- The cycle of a strobe: it writes no register, and the strobe overrules the completion. -/
theorem busCycle_of_strobe {s : State} (hk : s.KeepsUpdates) (st : Strobe) :
    (busCycle { strobe := st } s).blk.drpBusy = ((s.blk.complete s.input).strobe st).drpBusy ∧
      (busCycle { strobe := st } s).blk.drpReady = ((s.blk.complete s.input).strobe st).drpReady ∧
      WritesOnly s (busCycle { strobe := st } s) [] := by
  obtain ⟨hready, hbusy, -⟩ := busCycle_handshake hk { strobe := st }
  rw [hready, hbusy]
  cases st <;> exact ⟨rfl, rfl, writesOnly_busCycle hk nofun nofun⟩

/-- Settles O34: an idle port is not overlapped; the outputs are of the strobe and of the record at the start. -/
theorem strobesIssueRequests : Obligations.StrobesIssueRequests := by
  unfold Obligations.StrobesIssueRequests
  intro s d hr hk hidle
  have hexec (i : Instr) (hw : i.wellFormed s.cfg = true) : exec i s = .next (busCycle (actionOf s i) s) :=
    exec_of_wellFormed hr hw (by simp [overlaps, hidle])
  obtain ⟨hrd, hrdReady, hrdFrame⟩ := busCycle_of_strobe hk .read
  obtain ⟨hwr, hwrReady, hwrFrame⟩ := busCycle_of_strobe hk .write
  exact ⟨⟨_, hexec (.wrDrpRead d) rfl, hrd, hrdReady, rfl, rfl, rfl, rfl, hrdFrame⟩,
    _, hexec (.wrDrpWrite d) rfl, hwr, hwrReady, rfl, rfl, rfl, rfl, hwrFrame⟩

end Sys2Proof.Machine

/-! PROOFS. The clock port over runs of listed cycles: one induction over such a run, an unanswered request
(45_clock_port R216), the data of a completed read (R205), and the caller's contract (R218), which needs no bound on
resets and warm reboots. -/

namespace Sys2Proof.Machine

-- Runs of listed cycles.

/-- One cycle of a run of non-reset cycles whose inputs are listed, each with `Q`, and in which a warm reboot resets no
more than REBOOT_CTRL. -/
structure ListedCycle (cfg : Config) (Q : Input → Prop) (s t : State) : Prop where
  build : s.cfg = cfg
  inv : s.Inv
  running : s.inReset = false
  keeps : s.KeepsUpdates ∨ s.SmallScope
  input : Q s.input
  step : step s = .next t

theorem listedCycle_head {n : Nat} {s t : State} {Q : Input → Prop} (hi : s.Inv) (hw : NoWarmResetFor (n + 1) s)
    (hn : NoResetFor (n + 1) s) (hq : ∀ inp ∈ s.inputs.take (n + 1), Q inp) (h : step s = .next t) :
    ListedCycle s.cfg Q s t := by
  obtain ⟨hr, inp, rest, hinputs, hinput⟩ := noResetFor_head hn
  refine ⟨rfl, hi, hr, noWarmResetFor_head hw, ?_, h⟩
  rw [hinput]
  exact hq inp (by simp [hinputs])

theorem take_tail_of_mem {n : Nat} {l : List Input} {inp : Input} (h : inp ∈ l.tail.take n) :
    inp ∈ l.take (n + 1) := by
  cases l with
  | nil => simp at h
  | cons x l => exact List.mem_cons_of_mem x h

/-- What every listed cycle keeps, counting the cycles, holds after the run. -/
theorem run_induction {P : Nat → State → Prop} {Q : Input → Prop} {cfg : Config}
    (hkeep : ∀ m u v, ListedCycle cfg Q u v → P m u → P (m + 1) v) {n : Nat} (m : Nat) {s t : State}
    (hcfg : s.cfg = cfg) (hi : s.Inv) (hw : NoWarmResetFor n s) (hn : NoResetFor n s)
    (hq : ∀ inp ∈ s.inputs.take n, Q inp) (hp : P m s) (hrun : core.run n s = .next t) : P (m + n) t := by
  induction n generalizing s m with
  | zero =>
    obtain rfl := run_zero.mp hrun
    exact hp
  | succ n ih =>
    obtain ⟨u, hstep, hrest⟩ := run_succ.mp hrun
    have hcycle := listedCycle_head hi hw hn hq hstep
    have hin := step_inputs hstep
    have := ih (m + 1) ((step_cfg hstep).trans hcfg) (step_inv hi hstep) (noWarmResetFor_tail hn hw hstep)
      (noResetFor_tail hn hin) (fun inp hmem => hq inp (take_tail_of_mem (hin ▸ hmem)))
      (hkeep m s u (hcfg ▸ hcycle) hp) hrest
    rwa [Nat.add_assoc, Nat.add_comm 1] at this

-- The port over one cycle in which a warm reboot leaves it alone.

theorem step_strobe_eq_read {s : State} {a : BusAction} (hstrobes : (a.strobe != .none) = strobes s)
    (hwrite : a.strobe = .write ↔ ∃ d, s.input.req = encode (.wrDrpWrite d)) (h : a.strobe = .read) :
    ∃ d, s.input.req = encode (.wrDrpRead d) := by
  have hs : strobes s = true := by rw [← hstrobes, h]; rfl
  unfold strobes at hs
  split at hs
  · rename_i d hd
    exact ⟨d, (decode_eq_transaction_iff.mp hd).1⟩
  · rename_i d hd
    have := hwrite.mpr ⟨d, (decode_eq_transaction_iff.mp hd).1⟩
    rw [h] at this
    cases this
  · cases hs

/-- The port after a listed cycle: the completion, and then the strobe of the request, of an idle port only. -/
theorem step_port {cfg : Config} {Q : Input → Prop} {s t : State} (h : ListedCycle cfg Q s t) :
    ∃ st : Strobe, (s.blk.drpBusy ≠ .idle → st = .none) ∧
      (st = .read → ∃ d, s.input.req = encode (.wrDrpRead d)) ∧
      t.blk.drpBusy = ((s.blk.complete s.input).strobe st).drpBusy ∧
      t.blk.drpDatR = (s.blk.complete s.input).drpDatR := by
  obtain ⟨a, rfl, hstrobes, hwrite, hfree⟩ := step_strobe h.running h.step
  refine ⟨a.strobe, hfree, step_strobe_eq_read hstrobes hwrite, ?_⟩
  obtain ⟨-, hbusy, hdat⟩ := store_handshake s.cfg a ((s.blk.hardware s.cfg s.input a).strobe a.strobe)
  rw [strobe_drpDatR, hardware_drpDatR] at hdat
  have hbusy' : ((s.blk.hardware s.cfg s.input a).strobe a.strobe).drpBusy =
      ((s.blk.complete s.input).strobe a.strobe).drpBusy := by
    cases a.strobe <;> rfl
  rcases busCycle_blk_cases h.keeps a with hblk | hblk <;>
    exact hblk ▸ ⟨hbusy.trans hbusy', hdat⟩

theorem step_busy_of_unanswered {cfg : Config} {s t : State} (h : ListedCycle cfg (·.drpRdy = false) s t)
    (hb : s.blk.drpBusy ≠ .idle) : t.blk.drpBusy = s.blk.drpBusy := by
  obtain ⟨st, hfree, -, hbusy, -⟩ := step_port h
  rw [hbusy, hfree hb, strobe_none, complete_waiting _ _ h.input]

/-- The port holds the data `v` of a read, and no read request is outstanding. -/
def HoldsReadData (v : BitVec 16) (s : State) : Prop := s.blk.drpBusy ≠ .rd ∧ s.blk.drpDatR = v

/-- Only the completion of a read writes DRP_DAT_R (45_clock_port R205). -/
theorem complete_without_read {b : Block} (inp : Input) (h : b.drpBusy ≠ .rd) :
    (b.complete inp).drpBusy ≠ .rd ∧ (b.complete inp).drpDatR = b.drpDatR := by
  unfold Block.complete
  split
  · exact ⟨h, rfl⟩
  · exact ⟨h, rfl⟩
  · rename_i hrd _
    exact absurd hrd h
  · exact ⟨nofun, rfl⟩

theorem step_holdsReadData {cfg : Config} {v : BitVec 16} {s t : State}
    (h : ListedCycle cfg (fun inp => ∀ d, inp.req ≠ encode (.wrDrpRead d)) s t) (hp : HoldsReadData v s) :
    HoldsReadData v t := by
  obtain ⟨hb, hv⟩ := hp
  obtain ⟨st, -, hread, hbusy, hdat⟩ := step_port h
  obtain ⟨hb', hdat'⟩ := complete_without_read s.input hb
  refine ⟨?_, by rw [hdat, hdat', hv]⟩
  rw [hbusy]
  cases st with
  | none => exact hb'
  | read =>
    obtain ⟨d, hd⟩ := hread rfl
    exact absurd hd (h.input d)
  | write => exact nofun

theorem step_completes_read {cfg : Config} {Q : Input → Prop} {s t : State} (h : ListedCycle cfg Q s t)
    (hb : s.blk.drpBusy = .rd) (hrdy : s.input.drpRdy = true) : HoldsReadData s.input.drpDo t := by
  obtain ⟨st, hfree, -, hbusy, hdat⟩ := step_port h
  obtain ⟨hidle, -, hdo⟩ := complete_answered (b := s.blk) (by rw [hb]; exact nofun) hrdy
  rw [hfree (by rw [hb]; exact nofun), strobe_none, hidle] at hbusy
  rw [hdo, if_pos hb] at hdat
  exact ⟨by rw [hbusy]; exact nofun, hdat⟩

/-- A cycle before a run of listed cycles is itself listed, if there is any cycle in the run. -/
theorem noResetFor_cons {n : Nat} {s t : State} (hr : s.inReset = false) (hin : t.inputs = s.inputs.tail)
    (hn : NoResetFor (n + 1) t) : NoResetFor (n + 1 + 1) s := by
  obtain ⟨hlen, hall⟩ := hn
  rw [hin] at hlen hall
  cases hs : s.inputs with
  | nil => simp [hs] at hlen
  | cons inp rest =>
    have hfirst : resetLine inp = false := by
      unfold State.inReset State.input at hr
      rwa [hs] at hr
    rw [hs, List.tail_cons] at hlen hall
    exact ⟨by simpa [hs] using hlen, by simpa [hs, List.forall_mem_cons] using ⟨hfirst, by simpa using hall⟩⟩

-- The contract of a good caller.

/-- Neither the hardware nor a warm reboot of any scope makes an idle port busy; only a strobe does. -/
theorem step_idle_port {s t : State} (hr : s.inReset = false) (h : step s = .next t) (hb : s.blk.drpBusy = .idle)
    (hno : strobes s = false) : t.blk.drpBusy = .idle := by
  obtain ⟨a, rfl, hstrobes, -⟩ := step_strobe hr h
  have ha : a.strobe = .none := by simpa [hno] using hstrobes
  have hupdated : (((s.blk.hardware s.cfg s.input a).strobe a.strobe).store s.cfg a).drpBusy = .idle := by
    obtain ⟨-, hbusy, -⟩ := store_handshake s.cfg a ((s.blk.hardware s.cfg s.input a).strobe a.strobe)
    rw [hbusy, ha, strobe_none, hardware_drpBusy, complete_idle _ _ hb, hb]
  rw [busCycle_blk, Block.next, Block.warmReset]
  split
  · split
    · exact hupdated
    · exact hupdated
    · rfl
    · rfl
  · exact hupdated

/-- What a caller knows, it knows rightly: it has read DRP_READY = 1 only of an idle port, and only its own strobe
makes the port busy again. -/
theorem step_seenReady {seen : Bool} {s t : State} (hi : s.Inv) (hseen : seen = true → s.blk.drpBusy = .idle)
    (h : step s = .next t) (h' : seenReady seen s = true) : t.blk.drpBusy = .idle := by
  obtain ⟨-, -, -, -, -, hport⟩ := hi
  cases hr : s.inReset with
  | true =>
    rw [step_of_inReset hr] at h
    cases h
    exact reset_drpBusy s.cfg
  | false =>
    obtain ⟨hidle, hno⟩ : s.blk.drpBusy = .idle ∧ strobes s = false := by
      unfold seenReady at h'
      rw [hr, if_neg Bool.false_ne_true] at h'
      unfold strobes
      split at h'
      · rename_i hd
        rw [hd]
        rcases Bool.or_eq_true_iff.mp h' with hs | hready
        · exact ⟨hseen hs, rfl⟩
        · exact ⟨hport.mp hready, rfl⟩
      · cases h'
      · cases h'
      · rename_i hread hwrite
        refine ⟨hseen h', ?_⟩
        split
        · rename_i d hd
          exact absurd hd (hread d)
        · rename_i d hd
          exact absurd hd (hwrite d)
        · rfl
    exact step_idle_port hr h hidle hno

/-- DrpOverlap comes from a strobe of a busy port outside reset (45_clock_port R215). -/
theorem strobes_of_drpOverlap {s : State} {req : Request} {busy : DrpBusy}
    (h : step s = .fault (.drpOverlap req busy)) :
    s.inReset = false ∧ strobes s = true ∧ s.blk.drpBusy ≠ .idle := by
  unfold step at h
  split at h
  · cases h
  · rename_i hr
    have hr : s.inReset = false := by simpa using hr
    split at h
    · cases h
    · rename_i i hd
      rw [exec_eq, if_neg (by simp [hr])] at h
      split_ifs at h with hover
      · rw [overlaps, Bool.and_eq_true, ← strobes_of_transaction hd, bne_iff_ne] at hover
        exact ⟨hr, hover⟩
      · cases h
    · rename_i why _
      cases why <;> cases h

theorem no_drpOverlap_of_contract {n : Nat} {seen : Bool} {s : State} (hseen : seen = true → s.blk.drpBusy = .idle)
    (hcontract : KeepsContract (n + 1) seen s) (req : Request) (busy : DrpBusy) :
    step s ≠ .fault (.drpOverlap req busy) := by
  intro h
  obtain ⟨hr, hstrobes, hb⟩ := strobes_of_drpOverlap h
  obtain ⟨hread, -⟩ := hcontract
  exact hb (hseen (hread hstrobes hr))

-- The statements.

/-- Settles O37: each cycle keeps the request, and the invariant keeps DRP_READY at 0 with it. -/
theorem unansweredRequestStaysOutstanding : Obligations.UnansweredRequestStaysOutstanding := by
  unfold Obligations.UnansweredRequestStaysOutstanding
  intro n s t hi hw hn hb hrdy hrun
  obtain ⟨hbusy, ⟨-, -, -, -, -, hport⟩⟩ := run_induction
    (P := fun _ u => u.blk.drpBusy = s.blk.drpBusy ∧ u.Inv) (Q := (·.drpRdy = false))
    (fun _ u v h ⟨hu, _⟩ => ⟨(step_busy_of_unanswered h (hu ▸ hb)).trans hu, step_inv h.inv h.step⟩)
    0 rfl hi hw hn hrdy ⟨rfl, hi⟩ hrun
  refine ⟨hbusy, Bool.eq_false_iff.mpr fun hready => hb ?_⟩
  rw [← hbusy, hport.mp hready]

/-- Settles O38: the completion leaves the data and no read request, and each later cycle keeps both. -/
theorem readDataStaysUntilTheNextRead : Obligations.ReadDataStaysUntilTheNextRead := by
  unfold Obligations.ReadDataStaysUntilTheNextRead
  intro n s t u hi hw hr hb hrdy hstep hn hq hrun
  have hdone : HoldsReadData s.input.drpDo t :=
    step_completes_read (Q := fun _ => True) ⟨rfl, hi, hr, noWarmResetFor_head hw, trivial, hstep⟩ hb hrdy
  cases n with
  | zero =>
    obtain rfl := run_zero.mp hrun
    exact hdone.2
  | succ n =>
    have hw' := noWarmResetFor_tail (noResetFor_cons hr (step_inputs hstep) hn) hw hstep
    exact (run_induction (P := fun _ => HoldsReadData s.input.drpDo) (fun _ _ _ => step_holdsReadData) 0 rfl
      (step_inv hi hstep) hw' hn hq hdone hrun).2

/-- Settles O40: along the run the caller's knowledge stays right, so at its next strobe the port is idle. -/
theorem goodCallerNeverOverlaps : Obligations.GoodCallerNeverOverlaps := by
  unfold Obligations.GoodCallerNeverOverlaps
  intro n k
  induction k generalizing n with
  | zero =>
    intro seen s t req busy _ hseen hcontract hlt hrun
    obtain rfl := run_zero.mp hrun
    obtain ⟨n, rfl⟩ := Nat.exists_eq_add_of_lt hlt
    rw [Nat.zero_add] at hcontract
    exact no_drpOverlap_of_contract hseen hcontract req busy
  | succ k ih =>
    intro seen s t req busy hi hseen hcontract hlt hrun
    obtain ⟨u, hstep, hrest⟩ := run_succ.mp hrun
    cases n with
    | zero => omega
    | succ n =>
      obtain ⟨-, hnext⟩ := hcontract
      exact ih n (seenReady seen s) u t req busy (step_inv hi hstep) (step_seenReady hi hseen hstep)
        (hnext u hstep) (by omega) hrest

end Sys2Proof.Machine

/-! PROOFS. The event managers' registers (41_event_manager section 3): their masks, reads and writes, what a cycle with
any bus action makes of a source's pending bit and edge history, and what follows over two cycles and over runs of
listed cycles (R123 to R125, R137, R138). -/

namespace Sys2Proof.Machine

-- The masks.

theorem polarityMask_getLsbD (srcs : List Source) {i : Nat} (hi : i < 32) :
    (polarityMask srcs).getLsbD i = true ↔ ∃ src, srcs[i]? = some src ∧ src.policy = .selectablePolarity := by
  rw [polarityMask, packSources_getLsbD]
  cases srcs[i]? with
  | none => simp
  | some src => simp [hi]

theorem sourceMask_eq_ofNat (srcs : List Source) : sourceMask srcs = BitVec.ofNat 32 (2 ^ srcs.length - 1) := by
  refine BitVec.eq_of_getLsbD_eq fun i hi => ?_
  rw [sourceMask_getLsbD, BitVec.getLsbD_ofNat, Nat.testBit_two_pow_sub_one]

/-- Settles O41: both masks bit by bit. -/
theorem sourceMasks : Obligations.SourceMasks := by
  unfold Obligations.SourceMasks
  exact fun srcs _ => ⟨sourceMask_eq_ofNat srcs, fun i hi => polarityMask_getLsbD srcs hi⟩

-- The registers a build has.

theorem hasManager_of_lt {cfg : Config} {k : BitVec 4} (h : k.toNat < cfg.numEv) : cfg.hasManager k = true :=
  decide_eq_true h

theorem hasPolarity_of_lt {cfg : Config} {k : BitVec 4} (h : k.toNat < cfg.numEv)
    (hpol : cfg.hasPol k.toNat = true) : cfg.hasPolarity k = true := by
  rw [Config.hasPolarity, hasManager_of_lt h, hpol, Bool.and_self]

theorem hasPol_of_source {cfg : Config} {k i : Nat} {src : Source} (h : (cfg.sources k)[i]? = some src)
    (hpol : src.policy = .selectablePolarity) : cfg.hasPol k = true := by
  rw [Config.hasPol, List.any_eq_true]
  exact ⟨src, List.mem_of_getElem? h, beq_iff_eq.mpr hpol⟩

/-- Settles O42: three reads, of registers the build has. -/
theorem eventManagerReads : Obligations.EventManagerReads := by
  unfold Obligations.EventManagerReads
  intro s k hr hk
  exact ⟨exec_readInstr (r := .evPending k) hr (hasManager_of_lt hk),
    exec_readInstr (r := .evEnable k) hr (hasManager_of_lt hk),
    fun hpol => exec_readInstr (r := .evPolarity k) hr (hasPolarity_of_lt hk hpol)⟩

/-- A transaction of a register the build does not have (30_encoding R72). -/
theorem exec_of_not_wellFormed {s : State} {i : Instr} (hr : s.inReset = false)
    (hs : (actionOf s i).strobe = .none) (hw : i.wellFormed s.cfg = false) :
    exec i s = .fault (.unmapped (encode i)) := by
  have ho : overlaps s i = false := by simp [overlaps, hs]
  rw [exec_eq, hr, ho, hw]
  rfl

/-- Settles O45: the six transactions strobe nothing, so what they lack is the register. -/
theorem absentManagersFault : Obligations.AbsentManagersFault := by
  unfold Obligations.AbsentManagersFault
  intro s k d hr
  have hman (h : s.cfg.numEv ≤ k.toNat) : s.cfg.hasManager k = false := decide_eq_false (by omega)
  refine ⟨fun h => ?manager, fun h => ?polarity⟩
  case manager =>
    have hw := hman h
    exact ⟨exec_of_not_wellFormed hr rfl hw, exec_of_not_wellFormed hr rfl hw, exec_of_not_wellFormed hr rfl hw,
      exec_of_not_wellFormed hr rfl hw⟩
  case polarity =>
    have hw : s.cfg.hasPolarity k = false := by
      rw [Config.hasPolarity, Bool.and_eq_false_iff]
      exact h.imp hman id
    exact ⟨exec_of_not_wellFormed hr rfl hw, exec_of_not_wellFormed hr rfl hw⟩

-- A source through a cycle with any bus action.

section
variable {s : State} {k i : Nat} {src : Source}

theorem busCycle_managerAt_next (hi : s.Inv) (hkeep : s.KeepsUpdates) (hk : k < s.cfg.numEv) (a : BusAction) :
    ((busCycle a s).blk.managerAt k).pending =
        ((s.blk.managerAt k).next s.cfg s.blk s.input (a.clearOf k) k).pending ∧
      ((busCycle a s).blk.managerAt k).prev =
        ((s.blk.managerAt k).next s.cfg s.blk s.input (a.clearOf k) k).prev := by
  rw [busCycle_blk_keeps hkeep]
  exact updates_managerAt_status hi hk a

theorem busCycle_pending_getLsbD (hi : s.Inv) (hkeep : s.KeepsUpdates) (hk : k < s.cfg.numEv)
    (hsrc : (s.cfg.sources k)[i]? = some src) (a : BusAction) :
    ((busCycle a s).blk.managerAt k).pending.getLsbD i =
      (sourceEvent s.cfg s.blk s.input k i (s.blk.managerAt k) src ||
        ((s.blk.managerAt k).pending.getLsbD i && !(a.clearOf k).getLsbD i)) := by
  rw [(busCycle_managerAt_next hi hkeep hk a).1]
  exact managerNext_pending _ _ _ _ k i _ src (source_index_lt hi.1 hsrc) hsrc

theorem busCycle_prev_getLsbD (hi : s.Inv) (hkeep : s.KeepsUpdates) (hk : k < s.cfg.numEv)
    (hsrc : (s.cfg.sources k)[i]? = some src) (a : BusAction) :
    ((busCycle a s).blk.managerAt k).prev.getLsbD i =
      sourceInput s.cfg s.blk s.input k i (s.blk.managerAt k) src := by
  rw [(busCycle_managerAt_next hi hkeep hk a).2]
  exact managerNext_prev _ _ _ _ k i _ src (source_index_lt hi.1 hsrc) hsrc

/-- A bit without a source is 0 after every cycle (10_state R33). -/
theorem busCycle_pending_of_no_source (hi : s.Inv) (hkeep : s.KeepsUpdates) (hk : k < s.cfg.numEv)
    (hsrc : (s.cfg.sources k)[i]? = none) (a : BusAction) :
    ((busCycle a s).blk.managerAt k).pending.getLsbD i = false := by
  rw [(busCycle_managerAt_next hi hkeep hk a).1, EvManager.next, packSources_getLsbD, hsrc, Option.map_none,
    Option.getD_none, Bool.and_false]

end

-- Writes of the three registers.

section
variable {s : State} {k : BitVec 4}

theorem exec_wrEvPending (hr : s.inReset = false) (hk : k.toNat < s.cfg.numEv) (d : Word) :
    exec (.wrEvPending k d) s = .next (busCycle { clear := some (k, d) } s) :=
  exec_of_noStrobe hr (hasManager_of_lt hk) rfl

theorem clearOf_self (k : BitVec 4) (d : Word) : ({ clear := some (k, d) } : BusAction).clearOf k.toNat = d :=
  if_pos rfl

theorem storeCycle_inv (hi : s.Inv) (r : RegRef) (d : Word) : (storeCycle r d s).Inv := by
  obtain ⟨hwf, hblk⟩ := hi
  exact ⟨hwf, next_inv s.input _ hblk⟩

theorem storeCycle_enable (hi : s.Inv) (hkeep : s.KeepsUpdates) (hk : k.toNat < s.cfg.numEv) (d : Word) :
    ((storeCycle (.evEnable k) d s).blk.managerAt k.toNat).enable = d &&& sourceMask (s.cfg.sources k.toNat) := by
  obtain ⟨-, hev, -⟩ := hi
  rw [storeCycle_blk hkeep, put_managerAt]
  simp only [hardware_ev, evNext_length, hev, hk, and_self, if_true]

theorem storeCycle_polarity (hi : s.Inv) (hkeep : s.KeepsUpdates) (hk : k.toNat < s.cfg.numEv) (d : Word) :
    ((storeCycle (.evPolarity k) d s).blk.managerAt k.toNat).polarity =
      d &&& polarityMask (s.cfg.sources k.toNat) := by
  obtain ⟨-, hev, -⟩ := hi
  rw [storeCycle_blk hkeep, put_managerAt]
  simp only [hardware_ev, evNext_length, hev, hk, and_self, if_true]

end

/-- Settles O43: the clear of the manager's one equation is the written data. -/
theorem pendingWrite : Obligations.PendingWrite := by
  unfold Obligations.PendingWrite
  intro s k d hi hr hkeep hk
  refine ⟨_, exec_wrEvPending hr hk d, writesOnly_busCycle hkeep nofun ?_, handshakeAsIdle_busCycle hkeep rfl,
    fun i _ => ?bits⟩
  · rintro j d' ⟨⟩
    exact List.mem_singleton_self _
  case bits =>
    cases hsrc : (s.cfg.sources k.toNat)[i]? with
    | none => exact busCycle_pending_of_no_source hi hkeep hk hsrc _
    | some src => rw [busCycle_pending_getLsbD hi hkeep hk hsrc, clearOf_self]

/-- Settles O44: two stores, of registers the build has. -/
theorem enableAndPolarityWrites : Obligations.EnableAndPolarityWrites := by
  unfold Obligations.EnableAndPolarityWrites
  intro s k d hi hr hkeep hk
  refine ⟨⟨_, exec_store (r := .evEnable k) d hr rfl (hasManager_of_lt hk), storeCycle_enable hi hkeep hk d,
    storeCycle_writesOnly hkeep _ d, storeCycle_handshake hkeep _ d⟩, fun hpol => ?_⟩
  exact ⟨_, exec_store (r := .evPolarity k) d hr rfl (hasPolarity_of_lt hk hpol), storeCycle_polarity hi hkeep hk d,
    storeCycle_writesOnly hkeep _ d, storeCycle_handshake hkeep _ d⟩

/-- Settles O49: a set wins over a clear. -/
theorem eventSurvivesItsClear : Obligations.EventSurvivesItsClear := by
  unfold Obligations.EventSurvivesItsClear
  intro s k d i src hi hr hkeep hk hsrc hev
  refine ⟨_, exec_wrEvPending hr hk d, ?_⟩
  rw [busCycle_pending_getLsbD hi hkeep hk hsrc, hev, Bool.true_or]

-- Two cycles.

/-- The detector of an in-domain source of a fixed policy sees the trigger itself (41_event_manager R122). -/
theorem sourceInput_inDomain {src : Source} (hin : src.input = .inDomain) (hp : src.policy ≠ .selectablePolarity)
    (cfg : Config) (b : Block) (inp : Input) (k i : Nat) (m : EvManager) :
    sourceInput cfg b inp k i m src = (inp.evin.getD k 0#32).getLsbD i := by
  rw [sourceInput, sourceSignal, hin]
  cases hpol : src.policy with
  | risingPulse | fallingLatched => rfl
  | selectablePolarity => exact absurd hpol hp

/-- Settles O47: the edge history of the second cycle is the signal of the first. -/
theorem edgesBetweenTwoCycles : Obligations.EdgesBetweenTwoCycles := by
  unfold Obligations.EdgesBetweenTwoCycles
  intro s t u k i src hi hr hkeep hst hrt hkeept htu hk hsrc hin hclear
  have hcfg := step_cfg hst
  have hevent : (u.blk.managerAt k).pending.getLsbD i =
      edgeEvent src.policy (sourceInput t.cfg t.blk t.input k i (t.blk.managerAt k) src)
        (sourceInput s.cfg s.blk s.input k i (s.blk.managerAt k) src) := by
    rw [step_pending_getLsbD (step_inv hi hst) hrt (.inl hkeept) htu (by rwa [hcfg]) (by rwa [hcfg]), hclear,
      Bool.false_and, Bool.or_false, sourceEvent, step_prev_getLsbD hi hr (.inl hkeep) hst hk hsrc]
  refine ⟨fun hp => ?rise, fun hp => ?fall⟩
  all_goals
    rw [hevent, sourceInput_inDomain hin (by rw [hp]; exact nofun), sourceInput_inDomain hin (by rw [hp]; exact nofun),
      hp]
    simp only [edgeEvent, Bool.and_eq_true, Bool.not_eq_true']
  case rise => exact and_comm
  case fall => exact and_comm

/-- Settles O53: the stale bit passes the write's cycle, and the line of the next cycle shows it with the new mask. -/
theorem stalePendingRaisesTheLine : Obligations.StalePendingRaisesTheLine := by
  unfold Obligations.StalePendingRaisesTheLine
  intro s k d i hi hr hkeep hk hlt hpend hd
  obtain ⟨src, hsrc⟩ : ∃ src, (s.cfg.sources k.toNat)[i]? = some src := ⟨_, List.getElem?_eq_getElem hlt⟩
  refine ⟨_, exec_store (r := .evEnable k) d hr rfl (hasManager_of_lt hk), fun hrt hidle => ?_⟩
  have hstep := step_of_idle hrt hidle
  refine ⟨_, hstep, ?line⟩
  have hpend' : ((storeCycle (.evEnable k) d s).blk.managerAt k.toNat).pending.getLsbD i = true := by
    rw [storeCycle, busCycle_pending_getLsbD hi hkeep hk hsrc, hpend, BusAction.clearOf]
    simp
  have hen : ((storeCycle (.evEnable k) d s).blk.managerAt k.toNat).enable.getLsbD i = true := by
    rw [storeCycle_enable hi hkeep hk, BitVec.getLsbD_and, hd, sourceMask_getLsbD]
    simp [hlt, source_index_lt hi.1 hsrc]
  case line =>
    rw [step_irq hrt hstep hk]
    exact (irq_eq_true_iff _ _ _).mpr ⟨i, hlt, hpend', hen⟩

/-- Settles O54: the detector saw 0 in the write's cycle and sees the new polarity, 1, in the next. -/
theorem polarityWriteMakesAnEvent : Obligations.PolarityWriteMakesAnEvent := by
  unfold Obligations.PolarityWriteMakesAnEvent
  intro s k d i src hi hr hkeep hk hsrc hp hpol hd hsig
  have hi32 := source_index_lt hi.1 hsrc
  refine ⟨_, exec_store (r := .evPolarity k) d hr rfl (hasPolarity_of_lt hk (hasPol_of_source hsrc hp)),
    fun hrt hkeept hidle hsigt => ?_⟩
  have hprev : ((storeCycle (.evPolarity k) d s).blk.managerAt k.toNat).prev.getLsbD i = false := by
    rw [storeCycle, busCycle_prev_getLsbD hi hkeep hk hsrc, sourceInput, hp, hsig, hpol]
    rfl
  have hpol' : ((storeCycle (.evPolarity k) d s).blk.managerAt k.toNat).polarity.getLsbD i = true := by
    rw [storeCycle_polarity hi hkeep hk, BitVec.getLsbD_and, hd, Bool.true_and]
    exact (polarityMask_getLsbD _ hi32).mpr ⟨src, hsrc, hp⟩
  refine ⟨_, step_of_idle hrt hidle, ?_⟩
  rw [idleCycle, busCycle_pending_getLsbD (storeCycle_inv hi _ d) hkeept hk hsrc, sourceEvent, sourceInput, hsigt, hpol',
    hprev, hp]
  rfl

-- Runs of listed cycles.

section
variable {cfg : Config} {Q : Input → Prop} {s t : State}

/-- A request that does not write 1 to bit `i` of PENDING of manager `k` clears nothing there. -/
theorem clearData_getLsbD {s : State} {k : BitVec 4} {i : Nat}
    (h : ∀ d, s.input.req = encode (.wrEvPending k d) → d.getLsbD i = false) :
    (clearData s k.toNat).getLsbD i = false := by
  unfold clearData
  split
  · rename_i j d hd
    split
    · rename_i hjk
      obtain rfl := BitVec.eq_of_toNat_eq hjk
      exact h d (decode_eq_transaction_iff.mp hd).1
    · exact BitVec.getLsbD_zero
  · exact BitVec.getLsbD_zero

theorem listedCycle_pending {k i : Nat} {src : Source} (h : ListedCycle cfg Q s t) (hk : k < cfg.numEv)
    (hsrc : (cfg.sources k)[i]? = some src) :
    (t.blk.managerAt k).pending.getLsbD i = (sourceEvent cfg s.blk s.input k i (s.blk.managerAt k) src ||
      ((s.blk.managerAt k).pending.getLsbD i && !(clearData s k).getLsbD i)) := by
  obtain ⟨rfl, hi, hr, hs, -, hstep⟩ := h
  exact step_pending_getLsbD hi hr hs hstep hk hsrc

theorem listedCycle_prev {k i : Nat} {src : Source} (h : ListedCycle cfg Q s t) (hk : k < cfg.numEv)
    (hsrc : (cfg.sources k)[i]? = some src) :
    (t.blk.managerAt k).prev.getLsbD i = sourceInput cfg s.blk s.input k i (s.blk.managerAt k) src := by
  obtain ⟨rfl, hi, hr, hs, -, hstep⟩ := h
  exact step_prev_getLsbD hi hr hs hstep hk hsrc

/-- An enable bit goes down only by a write that takes it down (41_event_manager R134). -/
theorem listedCycle_enable {k : BitVec 4} {i : Nat} (h : ListedCycle cfg Q s t)
    (hlt : i < (cfg.sources k.toNat).length) (hen : (s.blk.managerAt k.toNat).enable.getLsbD i = true)
    (hw : ∀ d, s.input.req = encode (.wrEvEnable k d) → d.getLsbD i = true) :
    (t.blk.managerAt k.toNat).enable.getLsbD i = true := by
  obtain ⟨rfl, ⟨hwf, -⟩, hr, hs, -, hstep⟩ := h
  obtain ⟨a, rfl, -, hstore⟩ := step_action hr hstep
  have hhw : (((s.blk.hardware s.cfg s.input a).strobe a.strobe).managerAt k.toNat).enable.getLsbD i = true := by
    rwa [strobe_managerAt, (hardware_managerAt_stores _).1]
  rw [(busCycle_parts hs a k.toNat).1]
  cases hst : a.store with
  | none => rwa [store_none hst]
  | some p =>
    obtain ⟨r, d⟩ := p
    rw [store_some hst, put_managerAt]
    split
    · rename_i j
      split
      · rename_i hj
        obtain rfl := BitVec.eq_of_toNat_eq hj.1
        have hd := hw d (decode_eq_transaction_iff.mp (hstore _ d hst)).1
        have hi32 : i < 32 := lt_of_lt_of_le hlt (sources_length_le hwf _)
        rw [BitVec.getLsbD_and, hd, sourceMask_getLsbD]
        simp [hlt, hi32]
      · exact hhw
    · split <;> exact hhw
    · exact hhw

end

/-- The edge of the source was seen, and its pending bit is clear. -/
def EdgeSeen (k i : Nat) (s : State) : Prop :=
  (s.blk.managerAt k).prev.getLsbD i = true ∧ (s.blk.managerAt k).pending.getLsbD i = false

theorem step_edgeSeen {cfg : Config} {k i : Nat} {src : Source} {s t : State}
    (h : ListedCycle cfg (fun inp => (inp.evin.getD k 0#32).getLsbD i = true) s t) (hk : k < cfg.numEv)
    (hsrc : (cfg.sources k)[i]? = some src) (hp : src.policy = .risingPulse) (hin : src.input = .inDomain)
    (hseen : EdgeSeen k i s) : EdgeSeen k i t := by
  obtain ⟨hprev, hpend⟩ := hseen
  have hv : sourceInput cfg s.blk s.input k i (s.blk.managerAt k) src = true := by
    rw [sourceInput_inDomain hin (by rw [hp]; exact nofun)]
    exact h.input
  refine ⟨by rw [listedCycle_prev h hk hsrc, hv], ?_⟩
  rw [listedCycle_pending h hk hsrc, sourceEvent, hv, hp, hprev, hpend]
  rfl

/-- Settles O48: the signal keeps the edge seen, and a seen edge is no event. -/
theorem heldSignalMakesNoFurtherEvent : Obligations.HeldSignalMakesNoFurtherEvent := by
  unfold Obligations.HeldSignalMakesNoFurtherEvent
  intro n k i s t src hi hw hn hk hsrc hp hin hprev hpend hq hrun
  exact (run_induction (P := fun _ => EdgeSeen k i) (fun _ _ _ h => step_edgeSeen h hk hsrc hp hin) 0 rfl hi hw hn hq
    ⟨hprev, hpend⟩ hrun).2

/-- The source is pending and enabled. -/
def PendingEnabled (k i : Nat) (s : State) : Prop :=
  (s.blk.managerAt k).pending.getLsbD i = true ∧ (s.blk.managerAt k).enable.getLsbD i = true

/-- The request neither clears the source's bit nor takes it out of the mask. -/
def LeavesSource (k : BitVec 4) (i : Nat) (inp : Input) : Prop :=
  ∀ d, (inp.req = encode (.wrEvPending k d) → d.getLsbD i = false) ∧
    (inp.req = encode (.wrEvEnable k d) → d.getLsbD i = true)

/-- A pending and enabled source holds its line up in a cycle, and is left so by a request that leaves it. -/
theorem step_pendingEnabled {cfg : Config} {k : BitVec 4} {i : Nat} {s t : State}
    (h : ListedCycle cfg (LeavesSource k i) s t) (hk : k.toNat < cfg.numEv) (hlt : i < (cfg.sources k.toNat).length)
    (hp : PendingEnabled k.toNat i s) : PendingEnabled k.toNat i t ∧ t.out.irq.getD k.toNat false = true := by
  obtain ⟨hpend, hen⟩ := hp
  obtain ⟨src, hsrc⟩ : ∃ src, (cfg.sources k.toNat)[i]? = some src := ⟨_, List.getElem?_eq_getElem hlt⟩
  refine ⟨⟨?pending, listedCycle_enable h hlt hen fun d => (h.input d).2⟩, ?line⟩
  case pending =>
    rw [listedCycle_pending h hk hsrc, hpend, clearData_getLsbD fun d => (h.input d).1]
    simp
  case line =>
    obtain ⟨rfl, -, hr, -, -, hstep⟩ := h
    rw [step_irq hr hstep hk]
    exact (irq_eq_true_iff _ _ _).mpr ⟨i, hlt, hpend, hen⟩

/-- Settles O52: the first cycle raises the line, and every further one keeps it up. -/
theorem unservicedLineStaysUp : Obligations.UnservicedLineStaysUp := by
  unfold Obligations.UnservicedLineStaysUp
  intro n k i s t hi hw hn hk hlt hpend hen hq hrun
  obtain ⟨u, hstep, hrest⟩ := run_succ.mp hrun
  have hin := step_inputs hstep
  have hfirst := step_pendingEnabled (listedCycle_head hi hw hn hq hstep) hk hlt ⟨hpend, hen⟩
  exact (run_induction (P := fun _ u => PendingEnabled k.toNat i u ∧ u.out.irq.getD k.toNat false = true)
    (fun _ _ _ h hp => step_pendingEnabled h hk hlt hp.1) 0 (step_cfg hstep) (step_inv hi hstep)
    (noWarmResetFor_tail hn hw hstep) (noResetFor_tail hn hin)
    (fun inp hmem => hq inp (take_tail_of_mem (hin ▸ hmem))) hfirst hrest).2

end Sys2Proof.Machine

/-! PROOFS. A raw pulse of one cycle through a chain (42_synchronizer R155), and the latency of an event behind a chain
(70_reset_and_hazards R263). -/

namespace Sys2Proof.Machine

-- A pulse on its way through a chain.

/-- A chain of `n` stages that held `u`, `m + 2` cycles after a raw pulse of one cycle began: the pulse's cycle put its
draw `v` into the chain, the cycle after it its draw `w`, and the `m` cycles after that the old value behind them. -/
def SyncChain.pulsed (n : Nat) (u v w : Bool) (m : Nat) : SyncChain where
  stages := (List.replicate m u ++ w :: v :: List.replicate n u).take n
  aLast := u

/-- What a stage shifts out of a full chain is not missed. -/
theorem take_cons_take (n : Nat) (x : Bool) (l : List Bool) : (x :: l.take n).take n = (x :: l).take n := by
  cases n with
  | zero => rfl
  | succ n => simp [List.take_take]

section
variable {n c m : Nat} {u v w : Bool}

/-- The end of a pulse is a change again, so the draw decides. -/
theorem changed_cycle_back {inp : Input} (h : inp.raw.getD c false = u) :
    (SyncChain.changed n u v 0).cycle n c inp =
      SyncChain.pulsed n u v (if inp.draws.stage0.getD c false then u else !u) 0 := by
  rw [SyncChain.cycle, SyncChain.next, h, sampleRaw_eq]
  exact congrArg (SyncChain.mk · u) (take_cons_take n _ _)

/-- After a pulse the raw value is steady, so no draw matters. -/
theorem pulsed_cycle {inp : Input} (h : inp.raw.getD c false = u) :
    (SyncChain.pulsed n u v w m).cycle n c inp = SyncChain.pulsed n u v w (m + 1) := by
  have hstage : sampleRaw (inp.draws.stage0.getD c false) u u = u := by rw [sampleRaw_eq, ite_self]
  rw [SyncChain.cycle, SyncChain.next, h, SyncChain.pulsed, hstage]
  exact congrArg (SyncChain.mk · u) (take_cons_take n _ _)

theorem pulsed_foldl_cycle {l : List Input} (h : ∀ inp ∈ l, inp.raw.getD c false = u) :
    l.foldl (SyncChain.cycle n c) (SyncChain.pulsed n u v w m) = SyncChain.pulsed n u v w (m + l.length) := by
  induction l generalizing m with
  | nil => rfl
  | cons inp l ih =>
    obtain ⟨hinp, hl⟩ := List.forall_mem_cons.mp h
    rw [List.foldl_cons, pulsed_cycle hinp, ih hl, List.length_cons]
    congr 1
    omega

/-- The last stage of such a chain: the first draw arrives after `n` cycles, the second one cycle later. -/
theorem pulsed_lastStage (hn : 0 < n) :
    (SyncChain.pulsed n u v w m).stages.getD (n - 1) false =
      if m + 2 = n then v else if m + 1 = n then w else u := by
  rw [SyncChain.pulsed, List.getD_eq_getElem?_getD, List.getElem?_take_of_lt (by omega)]
  rcases Nat.lt_trichotomy (m + 1) n with hlt | rfl | hgt
  · obtain ⟨j, rfl⟩ : ∃ j, n = m + j + 2 := ⟨n - (m + 2), by omega⟩
    rw [List.getElem?_append_right (by simp; omega)]
    cases j with
    | zero => simp
    | succ j =>
      have hidx : m + (j + 1) + 2 - 1 - m = j + 2 := by omega
      rw [List.length_replicate, hidx, if_neg (by omega), if_neg (by omega)]
      simp only [List.getElem?_cons_succ, ← List.getD_eq_getElem?_getD]
      exact List.getD_replicate _ (by omega)
  · simp
  · have hnm : n - 1 < m := by omega
    rw [if_neg (by omega), if_neg (by omega), List.getElem?_append_left (by simpa using hnm)]
    simp [hnm]

end

/-- Settles O58: the run folds its inputs into the chain; the first two make the steady chain a pulsed one, the others
move the pulse on. -/
theorem oneCyclePulse : Obligations.OneCyclePulse := by
  unfold Obligations.OneCyclePulse
  intro n c u s t ch i0 i1 rest ⟨⟨hN, _⟩, _⟩ hw hinputs hn hch hsteady hfirst hlater hrun
  subst hsteady
  have hout := syncOut_of_chain (cfg := s.cfg) (run_sync_getElem? hw hn hch hrun)
  obtain ⟨hlen, -⟩ := hn
  rw [hinputs] at hout hlen
  match n with
  | 0 =>
    have hold : t.blk.syncOut s.cfg c = u := by
      rw [hout]
      exact List.getD_replicate _ (by omega)
    exact ⟨by omega, by omega, fun _ => hold⟩
  | 1 =>
    rw [List.take_succ_cons, List.take_zero, List.foldl_cons, List.foldl_nil, reset_cycle_changed hfirst,
      changed_lastStage (by omega), if_pos (by omega)] at hout
    exact ⟨by omega, by omega, fun _ => hout⟩
  | m + 2 =>
    simp only [Nat.add_succ_sub_one, List.take_succ_cons, List.forall_mem_cons] at hlater
    obtain ⟨hback, hsteady⟩ := hlater
    simp only [List.length_cons] at hlen
    rw [List.take_succ_cons, List.take_succ_cons, List.foldl_cons, List.foldl_cons, reset_cycle_changed hfirst,
      changed_cycle_back hback, pulsed_foldl_cycle hsteady, pulsed_lastStage (by omega), List.length_take,
      min_eq_left (by omega), Nat.zero_add] at hout
    rw [hout]
    refine ⟨fun h => if_pos h, fun h => ?_, fun h => ?_⟩
    · rw [if_neg (by omega), if_pos (by omega)]
    · rw [if_neg (by omega), if_neg (by omega)]

-- An event behind a chain.

/-- The output of a chain of `N` stages in cycle `j` after a rise of its raw input, with `v` the first cycle's draw
(42_synchronizer R154). -/
def risenOut (N : Nat) (v : Bool) (j : Nat) : Bool := if j < N then false else if j = N then v else true

/-- A risen output stays up. -/
theorem risenOut_mono {N j : Nat} {v : Bool} (h : risenOut N v j = true) : risenOut N v (j + 1) = true := by
  have hj : ¬ j < N := by
    intro hlt
    rw [risenOut, if_pos hlt] at h
    cases h
  rw [risenOut, if_neg (by omega), if_neg (by omega)]

/-- `m + 1` cycles after the rise of the raw input of channel `c`: the chain is the changed one, and edge history and
pending bit of the source behind it are its output of the cycle before. -/
def EventUnderWay (cfg : Config) (c k i : Nat) (v : Bool) (m : Nat) (s : State) : Prop :=
  s.blk.sync[c]? = some (SyncChain.changed cfg.syncStages false v m) ∧
    (s.blk.managerAt k).prev.getLsbD i = risenOut cfg.syncStages v m ∧
    (s.blk.managerAt k).pending.getLsbD i = risenOut cfg.syncStages v m

/-- The raw input of the channel is up, and the request does not clear the source's bit. -/
def RaisedAndLeft (c : Nat) (k : BitVec 4) (i : Nat) (inp : Input) : Prop :=
  inp.raw.getD c false = true ∧ ∀ d, inp.req = encode (.wrEvPending k d) → d.getLsbD i = false

section
variable {cfg : Config} {c i : Nat} {k : BitVec 4} {src : Source} {s t : State}

/-- A rising-pulse source behind a chain latches the rise of the chain's output. -/
theorem listedCycle_async (h : ListedCycle cfg (RaisedAndLeft c k i) s t) (hk : k.toNat < cfg.numEv)
    (hsrc : (cfg.sources k.toNat)[i]? = some src) (hp : src.policy = .risingPulse) (hin : src.input = .async c) :
    (t.blk.managerAt k.toNat).prev.getLsbD i = s.blk.syncOut cfg c ∧
      (t.blk.managerAt k.toNat).pending.getLsbD i =
        ((s.blk.syncOut cfg c && !(s.blk.managerAt k.toNat).prev.getLsbD i) ||
          (s.blk.managerAt k.toNat).pending.getLsbD i) := by
  have hv : sourceInput cfg s.blk s.input k.toNat i (s.blk.managerAt k.toNat) src = s.blk.syncOut cfg c := by
    rw [sourceInput, sourceSignal, hin, hp]
    rfl
  obtain ⟨-, hclear⟩ := h.input
  refine ⟨by rw [listedCycle_prev h hk hsrc, hv], ?_⟩
  rw [listedCycle_pending h hk hsrc, sourceEvent, hv, hp, clearData_getLsbD hclear, Bool.not_false, Bool.and_true]
  rfl

theorem listedCycle_sync {Q : Input → Prop} (h : ListedCycle cfg Q s t) (c : Nat) :
    t.blk.sync[c]? = s.blk.sync[c]?.map (SyncChain.cycle cfg.syncStages c · s.input) := by
  obtain ⟨rfl, -, hr, hs, -, hstep⟩ := h
  exact step_sync_getElem? hr hs hstep c

theorem changed_syncOut {b : Block} {v : Bool} {m : Nat} (hN : 0 < cfg.syncStages)
    (h : b.sync[c]? = some (SyncChain.changed cfg.syncStages false v m)) :
    b.syncOut cfg c = risenOut cfg.syncStages v (m + 1) := by
  rw [syncOut_of_chain h, changed_lastStage hN, risenOut]
  rfl

theorem step_eventUnderWay {v : Bool} {m : Nat} (h : ListedCycle cfg (RaisedAndLeft c k i) s t)
    (hk : k.toNat < cfg.numEv) (hsrc : (cfg.sources k.toNat)[i]? = some src) (hp : src.policy = .risingPulse)
    (hin : src.input = .async c) (hs : EventUnderWay cfg c k.toNat i v m s) :
    EventUnderWay cfg c k.toNat i v (m + 1) t := by
  obtain ⟨hchain, hprev, hpend⟩ := hs
  obtain ⟨⟨hN, -⟩, -⟩ := h.inv
  rw [h.build] at hN
  obtain ⟨hprev', hpend'⟩ := listedCycle_async h hk hsrc hp hin
  rw [changed_syncOut (by omega) hchain] at hprev' hpend'
  refine ⟨?chain, hprev', ?pending⟩
  case chain =>
    rw [listedCycle_sync h, hchain, Option.map_some, changed_cycle h.input.1]
  case pending =>
    rw [hpend', hprev, hpend]
    cases hold : risenOut cfg.syncStages v m with
    | false => rw [Bool.not_false, Bool.and_true, Bool.or_false]
    | true => rw [risenOut_mono hold]; rfl

/-- The first cycle of the rise: the chain still shows 0. -/
theorem step_rises (h : ListedCycle cfg (RaisedAndLeft c k i) s t) (hk : k.toNat < cfg.numEv)
    (hsrc : (cfg.sources k.toNat)[i]? = some src) (hp : src.policy = .risingPulse) (hin : src.input = .async c)
    (hchain : s.blk.sync[c]? = some (SyncChain.reset cfg.syncStages false))
    (hprev : (s.blk.managerAt k.toNat).prev.getLsbD i = false)
    (hpend : (s.blk.managerAt k.toNat).pending.getLsbD i = false) :
    EventUnderWay cfg c k.toNat i (s.input.draws.stage0.getD c false) 0 t := by
  obtain ⟨⟨hN, -⟩, -⟩ := h.inv
  rw [h.build] at hN
  have hout : s.blk.syncOut cfg c = false := by
    rw [syncOut_of_chain hchain]
    exact List.getD_replicate _ (by omega)
  have hzero : risenOut cfg.syncStages (s.input.draws.stage0.getD c false) 0 = false := if_pos (by omega)
  obtain ⟨hprev', hpend'⟩ := listedCycle_async h hk hsrc hp hin
  rw [hout] at hprev' hpend'
  refine ⟨?chain, hprev'.trans hzero.symm, ?pending⟩
  case chain =>
    rw [listedCycle_sync h, hchain, Option.map_some, reset_cycle_changed h.input.1]
    simp
  case pending => rw [hpend', hprev, hpend, hzero]; rfl

end

/-- Settles O59: from the first cycle on, edge history and pending bit follow the chain's output one cycle later. -/
theorem eventLatencyThroughTheChain : Obligations.EventLatencyThroughTheChain := by
  unfold Obligations.EventLatencyThroughTheChain
  intro n c i k s t ch src hi hw hn hch hsteady hk hsrc hp hin hprev hpend hq hrun
  subst hsteady
  cases n with
  | zero =>
    obtain rfl := run_zero.mp hrun
    exact ⟨fun _ => hpend, by omega, by omega⟩
  | succ m =>
    obtain ⟨u, hstep, hrest⟩ := run_succ.mp hrun
    have hin' := step_inputs hstep
    have hrise := step_rises (listedCycle_head hi hw hn hq hstep) hk hsrc hp hin hch hprev hpend
    obtain ⟨-, -, hlatched⟩ := run_induction
      (P := EventUnderWay s.cfg c k.toNat i (s.input.draws.stage0.getD c false))
      (fun _ _ _ h => step_eventUnderWay h hk hsrc hp hin) 0 (step_cfg hstep) (step_inv hi hstep)
      (noWarmResetFor_tail hn hw hstep) (noResetFor_tail hn hin')
      (fun inp hmem => hq inp (take_tail_of_mem (hin' ▸ hmem))) hrise hrest
    rw [hlatched, Nat.zero_add, risenOut]
    refine ⟨fun h => if_pos (by omega), fun h => ?_, fun h => ?_⟩
    · rw [if_neg (by omega), if_pos (by omega)]
    · rw [if_neg (by omega), if_neg (by omega)]

end Sys2Proof.Machine

/-! PROOFS. Resets and what one part of the state can reach: a reset cycle in full (70_reset_and_hazards R250 to R252),
the warm-reboot self-reset by scope (44_warm_reboot R198) and the CPU's restart after it (R192), and the enable masks,
which reach the interrupt lines and their own registers only (41_event_manager R129). -/

namespace Sys2Proof.Machine

-- The outputs of a reset cycle.

theorem reset_irqLines (cfg : Config) : (Block.reset cfg).irqLines cfg = List.replicate cfg.numEv false := by
  simp [Block.irqLines, managerAt_reset, EvManager.irq, List.map_const']

theorem reset_syncOuts {cfg : Config} (hwf : cfg.WF) : (Block.reset cfg).syncOuts cfg = cfg.syncInit := by
  obtain ⟨hN, -⟩ := hwf
  refine List.ext_getElem (by simp [Block.syncOuts, Config.numAsync]) fun c _ hc => ?_
  simp only [Block.syncOuts, List.getElem_map, List.getElem_range]
  rw [syncOut_of_chain (reset_sync_getElem? cfg (List.getElem?_eq_getElem hc)), syncReset_stages]
  exact List.getD_replicate _ (by omega)

theorem reset_outputs {cfg : Config} (hwf : cfg.WF) (v : Word) (held : Bool) :
    (Block.reset cfg).outputs cfg true .none v held = Outputs.inReset cfg v := by
  rw [Block.outputs, reset_irqLines, reset_syncOuts hwf]
  simp [Outputs.inReset, memS0, rebootReq]

/-- Settles O19: either signal makes a reset cycle, in which `step` and every `exec` take the same branch. (The model's
own `resetCycle` has the statement's name.) -/
theorem resetCycleInFull : Obligations.ResetCycle := by
  unfold Obligations.ResetCycle
  intro s hwf hreset
  have hr : s.inReset = true := by
    rw [State.inReset, resetLine]
    rcases hreset with h | h <;> simp [h]
  rw [step_of_inReset hr]
  refine ⟨⟨_, rfl, rfl, ?out⟩, fun i => ?exec⟩
  case out => rw [resetCycle_out, reset_outputs hwf]
  case exec => rw [exec_eq, if_pos hr]

-- The self-reset by scope.

/-- The state in the same build but for `WARM_RESET_SCOPE`. -/
def State.withScope (s : State) (scope : WarmResetScope) : State :=
  { s with cfg := { s.cfg with warmResetScope := scope } }

section
variable {s : State} {scope : WarmResetScope}

theorem wellFormed_withScope (i : Instr) : i.wellFormed (s.withScope scope).cfg = i.wellFormed s.cfg := by
  cases i <;> rfl

theorem actionOf_withScope (i : Instr) : actionOf (s.withScope scope) i = actionOf s i := by
  cases i <;> rfl

/-- The scope decides neither what is decoded nor what faults. -/
theorem step_withScope {t : State} (hr : s.inReset = false) (h : step s = .next t) (scope : WarmResetScope) :
    ∃ a, t = busCycle a s ∧ step (s.withScope scope) = .next (busCycle a (s.withScope scope)) := by
  rcases step_cases h with ⟨hr', _⟩ | ⟨_, hd, rfl⟩ | ⟨i, _, hd, hw, hover, rfl⟩
  · rw [hr] at hr'
    cases hr'
  · exact ⟨{}, rfl, step_of_idle (s := s.withScope scope) hr (decode_eq_idle.mp hd)⟩
  · obtain ⟨hreq, -⟩ := decode_eq_transaction_iff.mp hd
    have hw' : i.wellFormed (s.withScope scope).cfg = true := by rwa [wellFormed_withScope]
    have hover' : overlaps (s.withScope scope) i = false := by
      rw [overlaps, actionOf_withScope]
      exact hover
    refine ⟨actionOf s i, rfl, ?_⟩
    rw [step_of_encode (s := s.withScope scope) hr hw' hreq,
      exec_of_wellFormed (s := s.withScope scope) hr hw' hover', actionOf_withScope]

/-- The scope does not enter the updates that stand before the self-reset. -/
theorem busCycle_withScope_none (a : BusAction) : (busCycle a (s.withScope .none)).blk =
    ((s.blk.hardware s.cfg s.input a).strobe a.strobe).store s.cfg a := by
  rw [busCycle_blk_keeps (fun _ => rfl)]
  unfold Block.store
  cases a.store with
  | none => rfl
  | some p =>
    obtain ⟨r, d⟩ := p
    cases r <;> rfl

end

/-- The next record of a cycle with the request up, by scope. -/
theorem next_of_auth {b : Block} (h : auth b.rebootCtrl = true) (cfg : Config) (inp : Input) (a : BusAction) :
    (cfg.warmResetScope = .none →
        b.next cfg inp a = ((b.hardware cfg inp a).strobe a.strobe).store cfg a) ∧
      (cfg.warmResetScope = .ctrlOnly → b.next cfg inp a =
        { ((b.hardware cfg inp a).strobe a.strobe).store cfg a with rebootCtrl := 0#8 }) ∧
      (cfg.warmResetScope = .all → b.next cfg inp a = { Block.reset cfg with rebootAddr := b.rebootAddr }) ∧
      (cfg.warmResetScope = .allInclAddr → b.next cfg inp a = Block.reset cfg) := by
  rw [Block.next, Block.warmReset, if_pos h]
  refine ⟨fun hs => ?_, fun hs => ?_, fun hs => ?_, fun hs => ?_⟩ <;> rw [hs]

/-- Settles O29: the same cycle runs in the build with scope `none`, where all its updates stand. -/
theorem warmResetScopes : Obligations.WarmResetScopes := by
  unfold Obligations.WarmResetScopes
  intro s u hr ha h
  obtain ⟨a, rfl, hstep⟩ := step_withScope hr h .none
  refine ⟨_, hstep, ?_⟩
  rw [busCycle_withScope_none]
  exact next_of_auth ha s.cfg s.input a

-- The CPU's restart.

theorem step_cpuReset {s t : State} (h : step s = .next t) :
    t.out.cpuReset = (s.inReset || (auth s.blk.rebootCtrl && !s.inReset)) := by
  obtain ⟨st, v, hout⟩ := step_out h
  rw [hout, outputs_cpuReset, shownBlock_rebootReq]

/-- The CPU starts in the cycle of its release (44_warm_reboot R192). -/
theorem step_cpuStart {s t : State} (hr : s.inReset = false) (hheld : s.out.cpuReset = true)
    (ha : auth s.blk.rebootCtrl = false) (h : step s = .next t) : t.out.cpuStart = some s.blk.rebootAddr := by
  obtain ⟨a, rfl⟩ := step_busCycle hr h
  rw [busCycle_out, Block.outputs, rebootReq, ha, hheld]
  rfl

/-- An idle cycle with the request up ends it, and leaves the address the CPU restarts from. -/
theorem idleCycle_of_auth {s : State} (ha : auth s.blk.rebootCtrl = true) (hs : s.cfg.warmResetScope ≠ .none) :
    (idleCycle s).blk.rebootCtrl = 0#8 ∧ (idleCycle s).blk.rebootAddr =
      if s.cfg.warmResetScope = .allInclAddr then s.cfg.resetVectorDefault else s.blk.rebootAddr := by
  obtain ⟨-, hctrl, hall, hincl⟩ := next_of_auth ha s.cfg s.input {}
  rw [idleCycle_blk]
  cases hscope : s.cfg.warmResetScope with
  | none => exact absurd hscope hs
  | ctrlOnly =>
    rw [hctrl hscope]
    exact ⟨rfl, by simp [store_none]⟩
  | all =>
    rw [hall hscope]
    exact ⟨rfl, rfl⟩
  | allInclAddr =>
    rw [hincl hscope]
    exact ⟨rfl, rfl⟩

/-- Settles O30: the write makes the request, the next cycle holds the CPU and ends the request, and the one after
releases the CPU. -/
theorem warmRebootRestartsTheCpu : Obligations.WarmRebootRestartsTheCpu := by
  unfold Obligations.WarmRebootRestartsTheCpu
  intro s d hr ha hd hscope
  have hkeep : s.KeepsUpdates := by simp [State.KeepsUpdates, ha]
  have hauth : auth (storeCycle .rebootCtrl d s).blk.rebootCtrl = true := by
    rwa [storeCycle_blk hkeep, put_rebootCtrl_rebootCtrl]
  have haddr : (storeCycle .rebootCtrl d s).blk.rebootAddr = s.blk.rebootAddr := by
    rw [storeCycle_blk hkeep, put_rebootCtrl_rebootAddr, hardware_rebootAddr, complete_rebootAddr]
  refine ⟨_, exec_store (r := .rebootCtrl) d hr rfl rfl, fun hrt hidle => ?_⟩
  have hstep := step_of_idle hrt hidle
  obtain ⟨hctrl, hvector⟩ := idleCycle_of_auth hauth hscope
  have hheld := step_cpuReset hstep
  rw [hauth, hrt] at hheld
  refine ⟨_, hstep, by rw [step_rebootReq hstep, hauth, hrt]; rfl, hheld, hctrl, fun hru hidle' => ?_⟩
  have hstep' := step_of_idle hru hidle'
  have hended : auth (idleCycle (storeCycle .rebootCtrl d s)).blk.rebootCtrl = false := by rw [hctrl]; decide
  refine ⟨_, hstep', by rw [step_rebootReq hstep', hended, Bool.false_and],
    by rw [step_cpuReset hstep', hended, hru]; rfl, ?start⟩
  case start =>
    rw [step_cpuStart hru hheld hended hstep', hvector, haddr]
    rfl

-- Two cycles that differ in the enable masks.

/-- The record with other enable masks. -/
def Block.withMasks (b : Block) (masks : Nat → Word) : Block :=
  { b with ev := b.ev.mapIdx fun k m => { m with enable := masks k } }

section
variable (cfg : Config) (b : Block) (masks : Nat → Word) (inp : Input) (a : BusAction)

theorem managerAt_withMasks (k : Nat) :
    { (b.withMasks masks).managerAt k with enable := (b.managerAt k).enable } = b.managerAt k := by
  rw [Block.managerAt, Block.managerAt, Block.withMasks, List.getD_eq_getElem?_getD, List.getD_eq_getElem?_getD,
    List.getElem?_mapIdx]
  cases b.ev[k]? <;> rfl

theorem exists_withMasks_self : ∃ masks, b = b.withMasks masks := by
  refine ⟨fun k => (b.managerAt k).enable, ?_⟩
  have hev : b.ev = b.ev.mapIdx fun k m => { m with enable := (b.managerAt k).enable } := by
    refine List.ext_getElem (by simp) fun k hk _ => ?_
    simp [Block.managerAt, hk]
  rw [Block.withMasks, ← hev]

theorem complete_withMasks : (b.withMasks masks).complete inp = (b.complete inp).withMasks masks := by
  cases hb : b.drpBusy with
  | idle => rw [complete_idle _ _ hb, complete_idle (b.withMasks masks) inp hb]
  | rd | wr =>
    unfold Block.complete
    cases inp.drpRdy <;> simp [Block.withMasks, hb]

/-- No equation of the hardware reads an enable mask (41_event_manager R129). -/
theorem hardware_withMasks :
    (b.withMasks masks).hardware cfg inp a = (b.hardware cfg inp a).withMasks masks := by
  have hev : (b.withMasks masks).evNext cfg inp a =
      (b.evNext cfg inp a).mapIdx fun k m => { m with enable := masks k } := by
    rw [Block.evNext, Block.evNext, Block.withMasks, List.mapIdx_mapIdx, List.mapIdx_mapIdx]
    rfl
  rw [Block.hardware, complete_withMasks, hev]
  rfl

theorem strobe_withMasks (st : Strobe) : (b.withMasks masks).strobe st = (b.strobe st).withMasks masks := by
  cases st <;> rfl

/-- The store to ENABLE of a manager overrules its mask. -/
theorem store_withMasks : ∃ masks', (b.withMasks masks).store cfg a = (b.store cfg a).withMasks masks' := by
  cases hst : a.store with
  | none => exact ⟨masks, by rw [store_none hst, store_none hst]⟩
  | some p =>
    obtain ⟨r, d⟩ := p
    rw [store_some hst, store_some hst]
    cases r with
    | evEnable k =>
      refine ⟨fun j => if k.toNat = j then d &&& sourceMask (cfg.sources k.toNat) else masks j, ?_⟩
      refine congrArg (fun ev => { b with ev := ev }) (List.ext_getElem? fun j => ?_)
      by_cases hj : k.toNat = j <;> cases hm : b.ev[j]? <;> simp [Block.withMasks, hj, hm]
    | evPolarity k =>
      refine ⟨masks, congrArg (fun ev => { b with ev := ev }) (List.ext_getElem? fun j => ?_)⟩
      by_cases hj : k.toNat = j <;> cases hm : b.ev[j]? <;> simp [Block.withMasks, hj, hm]
    | _ => exact ⟨masks, rfl⟩

/-- The self-reset decides by REBOOT_CTRL and by the scope, never by the masks. -/
theorem warmReset_withMasks (b' : Block) (updated : Nat → Word) : ∃ masks',
    (b.withMasks masks).warmReset cfg (b'.withMasks updated) = (b.warmReset cfg b').withMasks masks' := by
  unfold Block.warmReset
  by_cases ha : auth b.rebootCtrl = true
  · rw [if_pos (show auth (b.withMasks masks).rebootCtrl = true from ha), if_pos ha]
    cases cfg.warmResetScope with
    | none | ctrlOnly => exact ⟨updated, rfl⟩
    | all | allInclAddr => exact exists_withMasks_self _
  · rw [if_neg (show ¬ auth (b.withMasks masks).rebootCtrl = true from ha), if_neg ha]
    exact ⟨updated, rfl⟩

theorem next_withMasks : ∃ masks', (b.withMasks masks).next cfg inp a = (b.next cfg inp a).withMasks masks' := by
  obtain ⟨updated, hstore⟩ := store_withMasks cfg ((b.hardware cfg inp a).strobe a.strobe) masks a
  rw [Block.next, Block.next, hardware_withMasks, strobe_withMasks, hstore]
  exact warmReset_withMasks cfg b masks _ updated

end

/-- The state with other enable masks. -/
def State.withMasks (s : State) (masks : Nat → Word) : State := { s with blk := s.blk.withMasks masks }

section
variable {s : State} (masks : Nat → Word)

/-- Of a transaction's bus action only the read data can show a mask. -/
theorem actionOf_withMasks (i : Instr) :
    ∃ v, actionOf (s.withMasks masks) i = { actionOf s i with rdata := v } := by
  cases i <;> exact ⟨_, rfl⟩

theorem busCycle_withMasks (a : BusAction) (v : Option Word) :
    { (busCycle { a with rdata := v } (s.withMasks masks)).out with
        irq := (busCycle a s).out.irq, rdata := (busCycle a s).out.rdata } = (busCycle a s).out ∧
      ∃ masks', (busCycle { a with rdata := v } (s.withMasks masks)).blk = (busCycle a s).blk.withMasks masks' :=
  ⟨rfl, next_withMasks s.cfg s.blk masks s.input a⟩

/-- The same kind of cycle runs: neither the request nor the port's overlap depends on a mask. -/
theorem step_withMasks {t : State} (h : step s = .next t) :
    ∃ t', step (s.withMasks masks) = .next t' ∧ { t'.out with irq := t.out.irq, rdata := t.out.rdata } = t.out ∧
      ∃ masks', t'.blk = t.blk.withMasks masks' := by
  rcases step_cases h with ⟨hr, rfl⟩ | ⟨hr, hd, rfl⟩ | ⟨i, hr, hd, hw, hover, rfl⟩
  · exact ⟨_, step_of_inReset (s := s.withMasks masks) hr, rfl, exists_withMasks_self _⟩
  · exact ⟨_, step_of_idle (s := s.withMasks masks) hr (decode_eq_idle.mp hd), busCycle_withMasks masks {} none⟩
  · obtain ⟨v, ha⟩ := actionOf_withMasks (s := s) masks i
    have hover' : overlaps (s.withMasks masks) i = false := by
      rw [overlaps, ha]
      exact hover
    refine ⟨busCycle (actionOf (s.withMasks masks) i) (s.withMasks masks), ?_, ha ▸ busCycle_withMasks masks _ v⟩
    rw [step_of_transaction (s := s.withMasks masks) hr hd,
      exec_of_wellFormed (s := s.withMasks masks) hr hw hover']

end

/-- Settles O51: the two cycles are of one kind, and leave records that differ in the masks alone. -/
theorem enableMasksOnlyTheLine : Obligations.EnableMasksOnlyTheLine := by
  unfold Obligations.EnableMasksOnlyTheLine
  intro s t masks s' h
  obtain ⟨t', hstep, hout, masks', hblk⟩ := step_withMasks masks h
  exact ⟨t', hstep, hout, hblk ▸ rfl, fun k => hblk ▸ managerAt_withMasks t.blk masks' k⟩

end Sys2Proof.Machine
